-- ==== Sys2Proof/Word.lean ====
section
/-! DEFINITION. The value types of the IRFC: bytes, frames, climate snapshots and pulse symbols
(spec/00_scope.md R8, R9; spec/10_state.md R11, R20 to R24; spec/30_encoding.md R60, R79). -/

namespace Sys2Proof

/-- A frame byte, `u8` (R11). -/
abbrev Byte := BitVec 8

/-- A host bus value, `u32` (R40). -/
abbrev Word := BitVec 32

/-- ClimateState: the five settings with the widths and encodings of the ST_* registers
(R20 to R24). ST_MODE 6, 7 and ST_FAN 4 to 7 are storable values that name no setting. -/
@[ext] structure Snapshot where
  power : BitVec 1
  mode  : BitVec 3
  fan   : BitVec 3
  swing : BitVec 1
  temp  : BitVec 6
deriving DecidableEq, Repr, Inhabited

/-- A frame: thirteen bytes, indices 0 to 12 (R11, R60). -/
@[ext] structure Frame where
  b0  : Byte
  b1  : Byte
  b2  : Byte
  b3  : Byte
  b4  : Byte
  b5  : Byte
  b6  : Byte
  b7  : Byte
  b8  : Byte
  b9  : Byte
  b10 : Byte
  b11 : Byte
  b12 : Byte
deriving DecidableEq, Repr, Inhabited

/-- A PulseSymbol: a (mark, space) pair of durations in microseconds; durations are `Nat` (R47, R79). -/
@[ext] structure Symbol where
  mark  : Nat
  space : Nat
deriving DecidableEq, Repr, Inhabited

end Sys2Proof
end

