-- ==== Sys2Proof/Config.lean ====
section
/-! DEFINITION. The form of the configuration record CFG (spec/00_scope.md R6, table T1; its values
stand in Machine/Cfg.lean) and the free values: what the spec leaves to nobody's choice
(R7, R37, R51, R145). A free value is an opaque constant: nothing can be proved of what it is. -/

namespace Sys2Proof

/-- The configuration record of table T1: "a single shared constant table" (R6). -/
structure Cfg where
  frameLen    : Nat
  bitsPerByte : Nat
  dataBits    : Nat
  id0         : Byte
  id2         : Byte
  id3         : Byte
  id10        : Byte
  button      : Byte
  tempOffset  : Nat
  tempMin     : Nat
  tempMax     : Nat
  swingFixed  : BitVec 3
  swingOn     : BitVec 3
  fanAuto     : Byte
  fanHigh     : Byte
  fanMedium   : Byte
  fanLow      : Byte
  modeAuto    : Byte
  modeCool    : Byte
  modeHeat    : Byte
  modeDry     : Byte
  modeFan     : Byte
  powerOff    : Byte
  powerOn     : Byte
  hdrMark     : Nat
  hdrSpace    : Nat
  bitMark     : Nat
  zeroSpace   : Nat
  oneSpace    : Nat
  ftrMark     : Nat
  ftrSpace    : Nat
  carrierHz   : Nat
deriving DecidableEq, Repr

/-- RESET_ST: the content of the five ST_* registers after a reset, which a model draws freely; "it must
not assume zero" (R7, R37). Its argument is State.draws: 0 for State.reset, a fresh number for each
later reset. Log 1. -/
opaque Config.resetSt : Nat → Snapshot

/-- RESET_FRAME: the content of FRAME[0..12] after a reset (R7, R37). Log 1. -/
opaque Config.resetFrame : Nat → Frame

/-- FRAME[0..12] after the n-th PDEC that ended in HeaderMismatch, BitMismatch or FooterMismatch:
"any u8; a model draws it", afresh at each such failure (R145, U14). Log 2. -/
opaque Config.scanFrame : Nat → Frame

/-- `Match`, the receiver's comparison of a nominal with an observed duration: a parameter the
receiver owns, with no default (R7, R51, U22). Log 3. -/
opaque Config.rxMatch : Nat → Nat → Bool

/-- What the receiver has captured when the IRFC leaves reset: the receiver's own (R31). Log 4. -/
opaque Config.resetCapture : List Symbol

/-- Where the receiver's cursor stands when the IRFC leaves reset: "not the IRFC's; unspecified"
(R31, table T3). Log 4. -/
opaque Config.resetCursor : Nat

/-- The answers the receiver will give after reset: "each answer is a free boolean input of the run"
(R51, U23). Log 4. -/
opaque Config.resetAnswers : List Bool

end Sys2Proof
end

