-- ==== Sys2Proof/Machine/Cfg.lean ====
section
/-! DEFINITION. The values of table T1 (spec/00_scope.md R6): every literal is the source's, copied
exactly. No operation and no host access can change them. -/

namespace Sys2Proof

/-- Table T1. -/
def CFG : Cfg where
  frameLen    := 13
  bitsPerByte := 8
  dataBits    := 104
  id0         := 0xC3#8
  id2         := 0x20#8
  id3         := 0x12#8
  id10        := 0x20#8
  button      := 0x05#8
  tempOffset  := 8
  tempMin     := 16
  tempMax     := 30
  swingFixed  := 0x0#3
  swingOn     := 0x7#3
  fanAuto     := 0xA0#8
  fanHigh     := 0x60#8
  fanMedium   := 0x40#8
  fanLow      := 0x20#8
  modeAuto    := 0x00#8
  modeCool    := 0x20#8
  modeHeat    := 0x80#8
  modeDry     := 0x40#8
  modeFan     := 0xC0#8
  powerOff    := 0x00#8
  powerOn     := 0x20#8
  hdrMark     := 8960
  hdrSpace    := 4485
  bitMark     := 625
  zeroSpace   := 685
  oneSpace    := 1935
  ftrMark     := 625
  ftrSpace    := 0
  carrierHz   := 38000

end Sys2Proof
end

