-- ==== Sys2Proof/Machine/FrameBytes.lean ====
section
/-! DEFINITION. Byte and bit access to a frame: `f[i]`, the 104-bit word `W`, and data bit k
(spec/00_scope.md R8; spec/20_memory.md R52). -/

namespace Sys2Proof

/-- `f[i]` (R8). -/
def Frame.get (f : Frame) (i : Fin 13) : Byte :=
  match i with
  | 0 => f.b0
  | 1 => f.b1
  | 2 => f.b2
  | 3 => f.b3
  | 4 => f.b4
  | 5 => f.b5
  | 6 => f.b6
  | 7 => f.b7
  | 8 => f.b8
  | 9 => f.b9
  | 10 => f.b10
  | 11 => f.b11
  | 12 => f.b12

/-- `f[i] := v` (R8). -/
def Frame.set (f : Frame) (i : Fin 13) (v : Byte) : Frame :=
  match i with
  | 0 => { f with b0 := v }
  | 1 => { f with b1 := v }
  | 2 => { f with b2 := v }
  | 3 => { f with b3 := v }
  | 4 => { f with b4 := v }
  | 5 => { f with b5 := v }
  | 6 => { f with b6 := v }
  | 7 => { f with b7 := v }
  | 8 => { f with b8 := v }
  | 9 => { f with b9 := v }
  | 10 => { f with b10 := v }
  | 11 => { f with b11 := v }
  | 12 => { f with b12 := v }

/-- `[0x00] * 13` (R101, R140). -/
def Frame.zero : Frame := ⟨0, 0, 0, 0, 0, 0, 0, 0, 0, 0, 0, 0, 0⟩

/-- The bytes in index order 0 to 12 (R52). -/
def Frame.bytes (f : Frame) : List Byte :=
  [f.b0, f.b1, f.b2, f.b3, f.b4, f.b5, f.b6, f.b7, f.b8, f.b9, f.b10, f.b11, f.b12]

/-- The frame whose 104-bit word is `w` (R52). -/
def Frame.ofWord (w : BitVec 104) : Frame where
  b0 := w.extractLsb' 0 8
  b1 := w.extractLsb' 8 8
  b2 := w.extractLsb' 16 8
  b3 := w.extractLsb' 24 8
  b4 := w.extractLsb' 32 8
  b5 := w.extractLsb' 40 8
  b6 := w.extractLsb' 48 8
  b7 := w.extractLsb' 56 8
  b8 := w.extractLsb' 64 8
  b9 := w.extractLsb' 72 8
  b10 := w.extractLsb' 80 8
  b11 := w.extractLsb' 88 8
  b12 := w.extractLsb' 96 8

/-- Data bit k: bit `k mod 8` of byte `k div 8` (R52). -/
def Frame.bit (f : Frame) (k : Nat) : Bool :=
  (f.get (Fin.ofNat 13 (k / CFG.bitsPerByte))).getLsbD (k % CFG.bitsPerByte)

/-- The 104-bit word of a frame: `W[8*i + j] = f[i][j]`, bit k of `W` is the k-th data bit sent (R52,
R60). -/
def Frame.toWord (f : Frame) : BitVec 104 := BitVec.ofFnLE fun k => f.bit k.val

/-- `buf[k div 8] := buf[k div 8] | (1 << (k mod 8))` (R140). -/
def Frame.setBit (f : Frame) (k : Nat) : Frame :=
  let i := Fin.ofNat 13 (k / CFG.bitsPerByte)
  f.set i (f.get i ||| (1#8 <<< (k % CFG.bitsPerByte)))

/-- The bits of one byte, least significant first (R133). -/
def byteBits (b : Byte) : List Bool :=
  (List.range CFG.bitsPerByte).map b.getLsbD

/-- The data bits in the order they are sent: byte 0 first, bit 0 first (R52, R133). -/
def Frame.bits (f : Frame) : List Bool :=
  f.bytes.flatMap byteBits

end Sys2Proof
end

