-- ==== Sys2Proof/Machine/Operands.lean ====
section
/-! DEFINITION. The operand forms of the IRFC: the field code tables T6 and T7, the swing and power
codes, the two parts of byte 1, and the four pulse symbols of table T8
(spec/30_encoding.md R74 to R79). -/

namespace Sys2Proof

/-- FanCode, table T6: ST_FAN to byte 4; 4 to 7 give 0x00 (R74, R105). -/
def fanCode (v : BitVec 3) : Byte :=
  if v = 0#3 then CFG.fanAuto
  else if v = 1#3 then CFG.fanLow
  else if v = 2#3 then CFG.fanMedium
  else if v = 3#3 then CFG.fanHigh
  else 0x00#8

/-- FanOf, table T6: byte 4 to ST_FAN; every other byte, 0x00 among them, is unmapped (R74, R117). -/
def fanOf (b : Byte) : Option (BitVec 3) :=
  if b = CFG.fanAuto then some 0#3
  else if b = CFG.fanLow then some 1#3
  else if b = CFG.fanMedium then some 2#3
  else if b = CFG.fanHigh then some 3#3
  else none

/-- ModeCode, table T7: ST_MODE to byte 6; Off and the unsupported values give 0x00 (R75). -/
def modeCode (v : BitVec 3) : Byte :=
  if v = 0#3 then CFG.modeAuto
  else if v = 1#3 then CFG.modeCool
  else if v = 2#3 then CFG.modeHeat
  else if v = 3#3 then CFG.modeDry
  else if v = 4#3 then CFG.modeFan
  else 0x00#8

/-- ModeOf, table T7: byte 6 to ST_MODE; 0x00 is Auto, every byte not in the table is unmapped
(R75, R118). -/
def modeOf (b : Byte) : Option (BitVec 3) :=
  if b = CFG.modeAuto then some 0#3
  else if b = CFG.modeCool then some 1#3
  else if b = CFG.modeHeat then some 2#3
  else if b = CFG.modeDry then some 3#3
  else if b = CFG.modeFan then some 4#3
  else none

/-- SwingCode (R76). -/
def swingCode (v : BitVec 1) : BitVec 3 :=
  if v = 1#1 then CFG.swingOn else CFG.swingFixed

/-- SwingOf: 1 to 6 are "unmapped, not an error" (R76, R116). -/
def swingOf (c : BitVec 3) : Option (BitVec 1) :=
  if c = CFG.swingFixed then some 0#1
  else if c = CFG.swingOn then some 1#1
  else none

/-- PowerCode (R77). -/
def powerCode (v : BitVec 1) : Byte :=
  if v = 1#1 then CFG.powerOn else CFG.powerOff

/-- PowerOf: total; every byte other than 0x20 means off (R77, R114). -/
def powerOf (b : Byte) : BitVec 1 :=
  if b = CFG.powerOn then 1#1 else 0#1

/-- TempField: `(t - 8) mod 32` (R78, R103). Subtraction wraps in 6 bits, a multiple of 32, so the
low five bits are the value modulo 32 for t < 8 as well (R122 b). -/
def tempField (t : BitVec 6) : BitVec 5 :=
  (t - BitVec.ofNat 6 CFG.tempOffset).setWidth 5

/-- `(field) + 8`, a value in 8 to 39 (R78, R115). -/
def tempOf (c : BitVec 5) : BitVec 6 :=
  c.setWidth 6 + BitVec.ofNat 6 CFG.tempOffset

/-- Byte 1: the temperature field in bits 7:3, the swing code in bits 2:0 (R62, R63, R78). -/
def byte1 (t : BitVec 5) (c : BitVec 3) : Byte :=
  (t.setWidth 8 <<< 3) ||| c.setWidth 8

/-- Byte 1 bits 7:3, `f[1] >> 3` (R78). -/
def tempBits (b : Byte) : BitVec 5 := b.extractLsb' 3 5

/-- Byte 1 bits 2:0, `f[1] & 0x07` (R78). -/
def swingBits (b : Byte) : BitVec 3 := b.extractLsb' 0 3

/-- The header symbol (table T8, R132). -/
def hdrSymbol : Symbol := ⟨CFG.hdrMark, CFG.hdrSpace⟩

/-- Data bit 0 (table T8, R133). -/
def zeroSymbol : Symbol := ⟨CFG.bitMark, CFG.zeroSpace⟩

/-- Data bit 1 (table T8, R133). -/
def oneSymbol : Symbol := ⟨CFG.bitMark, CFG.oneSpace⟩

/-- The footer symbol (table T8, R134). -/
def ftrSymbol : Symbol := ⟨CFG.ftrMark, CFG.ftrSpace⟩

/-- `BIT(0) = ZERO`, `BIT(1) = ONE` (R79). -/
def bitSymbol (b : Bool) : Symbol := if b then oneSymbol else zeroSymbol

/-- A symbol packed as mark in bits 31:16 and space in bits 15:0, the port's two 16-bit duration
fields (R47, R86). -/
def Symbol.toWord (y : Symbol) : BitVec 32 :=
  ((BitVec.ofNat 16 y.mark).setWidth 32 <<< 16) ||| (BitVec.ofNat 16 y.space).setWidth 32

/-- The symbol of a packed pair (R86). -/
def Symbol.ofWord (w : BitVec 32) : Symbol where
  mark := (w.extractLsb' 16 16).toNat
  space := (w.extractLsb' 0 16).toNat

/-- The four identifier bytes equal their constants: step 1 of decode (R73, R112). -/
def Frame.idsMatch (f : Frame) : Bool :=
  f.b0 == CFG.id0 && f.b2 == CFG.id2 && f.b3 == CFG.id3 && f.b10 == CFG.id10

/-- The field codes are ones the encoder can write: swing Off or Vertical, a fan code or 0x00, a mode
code, a power code (table row FRAME.ENCODED; R66 to R68, R76). -/
def codesListed (swing : BitVec 3) (fan mode power : Byte) : Bool :=
  (swingOf swing).isSome && ((fanOf fan).isSome || fan == 0x00#8) && (modeOf mode).isSome
    && (power == CFG.powerOn || power == CFG.powerOff)

end Sys2Proof
end

