-- ==== Sys2Proof/Syntax.lean ====
section
/-! DEFINITION. The rows of spec/opcode_table.json, one constructor each, and the words they are read
from (spec/30_encoding.md R80, R86). Seven rows are what a CMD write can select; the others are the
encodings of what a host or a receiver hands to the block: a frame, a frame field, a pulse symbol. -/

namespace Sys2Proof

/-- One constructor per row of the opcode table. `ign` keeps bits 31:3 of the written value, which
no rule reads (R18, R81). -/
inductive Instr where
  /-- FENC: frame encode (R100). -/
  | fenc (ign : BitVec 29)
  /-- FDEC: frame decode (R110). -/
  | fdec (ign : BitVec 29)
  /-- PENC: pulse encode (R130). -/
  | penc (ign : BitVec 29)
  /-- PDEC: pulse decode (R140). -/
  | pdec (ign : BitVec 29)
  /-- XMIT: FENC then PENC (R138). -/
  | xmit (ign : BitVec 29)
  /-- RESERVED.0: command code 0 (R81, R166). -/
  | reserved0 (ign : BitVec 29)
  /-- RESERVED.6_7: command codes 6 and 7; `low` is bit 0 of the code (R81, R166). -/
  | reserved67 (ign : BitVec 29) (low : BitVec 1)
  /-- FRAME: a frame word that passes decode's identifier test (R73). -/
  | frame (swing : BitVec 3) (temp : BitVec 5) (fan byte5 mode byte7 byte8 power btn checksum : Byte)
  /-- FRAME.ENCODED: a frame word of the form FrameEncode writes (R101). -/
  | frameEncoded (swing : BitVec 3) (temp : BitVec 5) (fan mode power checksum : Byte)
  /-- ID0: byte 0 (R61). -/
  | id0
  /-- ID2: byte 2 (R64). -/
  | id2
  /-- ID3: byte 3 (R65). -/
  | id3
  /-- ID10: byte 10 (R69). -/
  | id10
  /-- TEMP: byte 1 bits 7:3 (R78). -/
  | temp (t : BitVec 5)
  /-- SWING.OFF: byte 1 bits 2:0 (R76). -/
  | swingOff
  /-- SWING.VERTICAL: byte 1 bits 2:0 (R76). -/
  | swingVertical
  /-- FAN.AUTO: byte 4 (R74). -/
  | fanAuto
  /-- FAN.LOW: byte 4 (R74). -/
  | fanLow
  /-- FAN.MEDIUM: byte 4 (R74). -/
  | fanMedium
  /-- FAN.HIGH: byte 4 (R74). -/
  | fanHigh
  /-- FAN.NONE: byte 4 as the encoder leaves it for an unsupported setting (R74). -/
  | fanNone
  /-- MODE.AUTO: byte 6 (R75). -/
  | modeAuto
  /-- MODE.COOL: byte 6 (R75). -/
  | modeCool
  /-- MODE.HEAT: byte 6 (R75). -/
  | modeHeat
  /-- MODE.DRY: byte 6 (R75). -/
  | modeDry
  /-- MODE.FANONLY: byte 6 (R75). -/
  | modeFanonly
  /-- POWER.ON: byte 9 (R77). -/
  | powerOn
  /-- POWER.OFF: byte 9 (R77). -/
  | powerOff
  /-- BUTTON: byte 11 (R71). -/
  | button
  /-- HDR: the header symbol (R79). -/
  | hdr
  /-- ZERO: a data bit 0 (R79). -/
  | zero
  /-- ONE: a data bit 1 (R79). -/
  | one
  /-- FTR: the footer symbol (R79). -/
  | ftr
deriving DecidableEq, Repr

/-- The whole-byte fields of a frame (format FIELD8; table T5). -/
inductive BytePlace where
  | id0 | id2 | id3 | fan | mode | power | id10 | button
deriving DecidableEq, Repr

/-- A word in one of the opcode table's formats, with the place it is read at: the same eight bits
mean different rows in different bytes of the frame (R86). -/
inductive TableWord where
  /-- Format CMD: the 32-bit value written to CMD. -/
  | cmd (v : BitVec 32)
  /-- Format FRAME: the 104-bit word `W` of R52. -/
  | frame (w : BitVec 104)
  /-- Format FIELD8: a whole byte at its place. -/
  | field8 (p : BytePlace) (c : Byte)
  /-- Format FIELD5: byte 1 bits 7:3. -/
  | field5 (c : BitVec 5)
  /-- Format FIELD3: byte 1 bits 2:0. -/
  | field3 (c : BitVec 3)
  /-- Format SYMBOL: mark in bits 31:16, space in bits 15:0. -/
  | symbol (w : BitVec 32)
deriving DecidableEq, Repr

end Sys2Proof
end

