-- ==== Sys2Proof/WellFormed.lean ====
section
/-! DEFINITION. Which terms of `Instr` stand for a word of their row. The types carry every width; what
is left is the border between the two frame rows: FRAME.ENCODED holds the field codes the encoder can
write, and a FRAME term is not one of those words (spec/30_encoding.md R86; table rows FRAME and
FRAME.ENCODED). -/

namespace Sys2Proof

/-- The term is the reading of some word: for the two frame rows, that the other row does not claim it. -/
def Instr.wellFormed : Instr → Bool
  | .fenc _ => true
  | .fdec _ => true
  | .penc _ => true
  | .pdec _ => true
  | .xmit _ => true
  | .reserved0 _ => true
  | .reserved67 _ _ => true
  | .frame swing _ fan byte5 mode byte7 byte8 power btn _ =>
    !(byte5 == 0x00#8 && byte7 == 0x00#8 && byte8 == 0x00#8 && btn == CFG.button
      && codesListed swing fan mode power)
  | .frameEncoded swing _ fan mode power _ => codesListed swing fan mode power
  | .id0 => true
  | .id2 => true
  | .id3 => true
  | .id10 => true
  | .temp _ => true
  | .swingOff => true
  | .swingVertical => true
  | .fanAuto => true
  | .fanLow => true
  | .fanMedium => true
  | .fanHigh => true
  | .fanNone => true
  | .modeAuto => true
  | .modeCool => true
  | .modeHeat => true
  | .modeDry => true
  | .modeFanonly => true
  | .powerOn => true
  | .powerOff => true
  | .button => true
  | .hdr => true
  | .zero => true
  | .one => true
  | .ftr => true

end Sys2Proof
end

