-- ==== Sys2Proof/Decode.lean ====
section
/-! DEFINITION. The decoder, total on every word of every format and rejecting by name, and the encoder
(spec/30_encoding.md R80, R86 and spec/opcode_table.json). -/

namespace Sys2Proof

/-- Why a word is no row of the table. None of these is an error of the hardware: the host may load
any bytes and the air may carry any symbol (R82, R137, R142). -/
inductive DecodeError where
  /-- A 104-bit word whose identifier bytes differ from 0xC3, 0x20, 0x12, 0x20. -/
  | notIdentified
  /-- A field value its code table does not list. -/
  | unlistedCode
  /-- A pair of durations that is none of the four nominal symbols. -/
  | unlistedSymbol
deriving DecidableEq, Repr

/-- Table T9: `v[2:0]` selects; bits 31:3 are ignored (R80, R81). -/
def decodeCmd (v : BitVec 32) : Instr :=
  let ign := v.extractLsb' 3 29
  let code := v.extractLsb' 0 3
  if code = 1#3 then .fenc ign
  else if code = 2#3 then .fdec ign
  else if code = 3#3 then .penc ign
  else if code = 4#3 then .pdec ign
  else if code = 5#3 then .xmit ign
  else if code = 0#3 then .reserved0 ign
  else .reserved67 ign (code.extractLsb' 0 1)

/-- Rows FRAME and FRAME.ENCODED: the identifier test, then the narrower row first (R73, R86). -/
def decodeFrame (w : BitVec 104) : Except DecodeError Instr :=
  let f := Frame.ofWord w
  if f.idsMatch then
    if f.b5 = 0x00#8 ∧ f.b7 = 0x00#8 ∧ f.b8 = 0x00#8 ∧ f.b11 = CFG.button
        ∧ codesListed (swingBits f.b1) f.b4 f.b6 f.b9 then
      .ok (.frameEncoded (swingBits f.b1) (tempBits f.b1) f.b4 f.b6 f.b9 f.b12)
    else
      .ok (.frame (swingBits f.b1) (tempBits f.b1) f.b4 f.b5 f.b6 f.b7 f.b8 f.b9 f.b11 f.b12)
  else .error .notIdentified

/-- The FIELD8 rows of one byte place (R61 to R77). -/
def decodeField8 (p : BytePlace) (c : Byte) : Except DecodeError Instr :=
  match p with
  | .id0 => if c = CFG.id0 then .ok .id0 else .error .unlistedCode
  | .id2 => if c = CFG.id2 then .ok .id2 else .error .unlistedCode
  | .id3 => if c = CFG.id3 then .ok .id3 else .error .unlistedCode
  | .id10 => if c = CFG.id10 then .ok .id10 else .error .unlistedCode
  | .button => if c = CFG.button then .ok .button else .error .unlistedCode
  | .fan =>
    if c = CFG.fanAuto then .ok .fanAuto
    else if c = CFG.fanLow then .ok .fanLow
    else if c = CFG.fanMedium then .ok .fanMedium
    else if c = CFG.fanHigh then .ok .fanHigh
    else if c = 0x00#8 then .ok .fanNone
    else .error .unlistedCode
  | .mode =>
    if c = CFG.modeAuto then .ok .modeAuto
    else if c = CFG.modeCool then .ok .modeCool
    else if c = CFG.modeHeat then .ok .modeHeat
    else if c = CFG.modeDry then .ok .modeDry
    else if c = CFG.modeFan then .ok .modeFanonly
    else .error .unlistedCode
  | .power =>
    if c = CFG.powerOn then .ok .powerOn
    else if c = CFG.powerOff then .ok .powerOff
    else .error .unlistedCode

/-- The FIELD3 rows (R76). -/
def decodeField3 (c : BitVec 3) : Except DecodeError Instr :=
  if c = CFG.swingFixed then .ok .swingOff
  else if c = CFG.swingOn then .ok .swingVertical
  else .error .unlistedCode

/-- The SYMBOL rows (R79, R86). -/
def decodeSymbol (w : BitVec 32) : Except DecodeError Instr :=
  if w = hdrSymbol.toWord then .ok .hdr
  else if w = zeroSymbol.toWord then .ok .zero
  else if w = oneSymbol.toWord then .ok .one
  else if w = ftrSymbol.toWord then .ok .ftr
  else .error .unlistedSymbol

/-- The table row a word stands for. -/
def decode : TableWord → Except DecodeError Instr
  | .cmd v => .ok (decodeCmd v)
  | .frame w => decodeFrame w
  | .field8 p c => decodeField8 p c
  | .field5 c => .ok (.temp c)
  | .field3 c => decodeField3 c
  | .symbol w => decodeSymbol w

/-- The 32-bit value with command code `code` in bits 2:0 and `ign` in bits 31:3 (R80, R81). -/
def cmdWord (ign : BitVec 29) (code : BitVec 3) : BitVec 32 :=
  (ign.setWidth 32 <<< 3) ||| code.setWidth 32

/-- The word of a row, written from table T5, T6, T7, T8 and T9. -/
def encode : Instr → TableWord
  | .fenc ign => .cmd (cmdWord ign 1#3)
  | .fdec ign => .cmd (cmdWord ign 2#3)
  | .penc ign => .cmd (cmdWord ign 3#3)
  | .pdec ign => .cmd (cmdWord ign 4#3)
  | .xmit ign => .cmd (cmdWord ign 5#3)
  | .reserved0 ign => .cmd (cmdWord ign 0#3)
  | .reserved67 ign low => .cmd (cmdWord ign (6#3 ||| low.setWidth 3))
  | .frame swing temp fan byte5 mode byte7 byte8 power btn checksum =>
    .frame (Frame.toWord ⟨CFG.id0, byte1 temp swing, CFG.id2, CFG.id3, fan, byte5, mode, byte7, byte8,
      power, CFG.id10, btn, checksum⟩)
  | .frameEncoded swing temp fan mode power checksum =>
    .frame (Frame.toWord ⟨CFG.id0, byte1 temp swing, CFG.id2, CFG.id3, fan, 0x00#8, mode, 0x00#8,
      0x00#8, power, CFG.id10, CFG.button, checksum⟩)
  | .id0 => .field8 .id0 CFG.id0
  | .id2 => .field8 .id2 CFG.id2
  | .id3 => .field8 .id3 CFG.id3
  | .id10 => .field8 .id10 CFG.id10
  | .temp t => .field5 t
  | .swingOff => .field3 CFG.swingFixed
  | .swingVertical => .field3 CFG.swingOn
  | .fanAuto => .field8 .fan CFG.fanAuto
  | .fanLow => .field8 .fan CFG.fanLow
  | .fanMedium => .field8 .fan CFG.fanMedium
  | .fanHigh => .field8 .fan CFG.fanHigh
  | .fanNone => .field8 .fan 0x00#8
  | .modeAuto => .field8 .mode CFG.modeAuto
  | .modeCool => .field8 .mode CFG.modeCool
  | .modeHeat => .field8 .mode CFG.modeHeat
  | .modeDry => .field8 .mode CFG.modeDry
  | .modeFanonly => .field8 .mode CFG.modeFan
  | .powerOn => .field8 .power CFG.powerOn
  | .powerOff => .field8 .power CFG.powerOff
  | .button => .field8 .button CFG.button
  | .hdr => .symbol hdrSymbol.toWord
  | .zero => .symbol zeroSymbol.toWord
  | .one => .symbol oneSymbol.toWord
  | .ftr => .symbol ftrSymbol.toWord

/-- The place an eight-bit field word is read at when only its bits are known: the first row of the
table, in the table's order, whose match is the word; TEMP, which fixes no bit, where none is, with
its value in bits 7:3 as the row numbers them. The bits alone do not say it (0x20 is ID2, ID10,
FAN.LOW, MODE.COOL or POWER.ON by its byte). DESIGN CHOICE, log 8. -/
def fieldPlace (c : Byte) : TableWord :=
  if c = 0xC3#8 then .field8 .id0 c
  else if c = 0x20#8 then .field8 .id2 c
  else if c = 0x12#8 then .field8 .id3 c
  else if c = 0x00#8 ∨ c = 0x07#8 then .field3 (c.setWidth 3)
  else if c = 0xA0#8 ∨ c = 0x40#8 ∨ c = 0x60#8 then .field8 .fan c
  else if c = 0x80#8 ∨ c = 0xC0#8 then .field8 .mode c
  else if c = 0x05#8 then .field8 .button c
  else .field5 (tempBits c)

/-- The word `w` of a table row of `nbits` bits, with its place: 104 bits are a frame; 32 bits are a
pulse symbol where they are one of the four and a CMD value otherwise; 8 bits are a field; 16 bits
are the two rows to which the table gives a bit above the byte, ID10 (bit 10) and BUTTON (bit 11).
DESIGN CHOICE, log 8: the machine itself always knows the place (see Machine/Access.lean). -/
def tableWord (nbits w : Nat) : Option TableWord :=
  if nbits = 104 then some (.frame (BitVec.ofNat 104 w))
  else if nbits = 32 then
    let v := BitVec.ofNat 32 w
    match decodeSymbol v with
    | .ok _ => some (.symbol v)
    | .error _ => some (.cmd v)
  else if nbits = 16 then
    if w % 256 = 0x20 then some (.field8 .id10 0x20#8)
    else if w % 256 = 0x05 then some (.field8 .button 0x05#8)
    else none
  else if nbits = 8 then some (fieldPlace (BitVec.ofNat 8 w))
  else none

/-- What the decoder reads from a table word given by its bits alone. -/
def decodeTableWord (nbits w : Nat) : Option Instr :=
  match tableWord nbits w with
  | some t => (decode t).toOption
  | none => none

end Sys2Proof
end

