-- ==== Sys2Proof/Machine/State.lean ====
section
/-! DEFINITION. The state of the IRFC as plain data (spec/10_state.md R11 to R37, tables T2 and T3), the
port histories of R30, and, held beside it because one deterministic step needs them, the receiver
behind the RX port and the host's script. -/

namespace Sys2Proof.Machine

/-- Result codes, table T2. There is no constructor for code 6: it is "never produced" (R15, U17). -/
inductive Result where
  | ok
  | headerMismatch
  | bitMismatch
  | footerMismatch
  | staticMismatch
  | checksumMismatch
  | illegalCommand
deriving DecidableEq, Repr, Inhabited

/-- One TX.Transmit(hz, L) event (R47). -/
structure TxEvent where
  hz    : Nat
  train : List Symbol
deriving DecidableEq, Repr

/-- The two queries of the RX port, with their nominal durations (R48, R50). -/
inductive RxQuery where
  /-- RX.ExpectItem(m, s). -/
  | item (m s : Nat)
  /-- RX.ExpectMark(m). -/
  | mark (m : Nat)
deriving DecidableEq, Repr

/-- One entry of RXLOG: a query and its answer, `true` for present (R30). -/
structure RxEvent where
  query  : RxQuery
  answer : Bool
deriving DecidableEq, Repr

/-- A receiver's comparison `Match` (R7, R51, R59), written as data. -/
inductive MatchRule where
  /-- Exact equality, the rule of the spec's test vectors (R59). -/
  | exact
  /-- Any other comparison, by the list of the (nominal, observed) pairs it accepts; on the finitely
  many durations of a capture every `Match` is of this form. -/
  | pairs (accepted : List (Nat × Nat))
  /-- The open parameter `Match` (U22): Config.rxMatch. -/
  | parameter
deriving DecidableEq, Repr

/-- How the receiver answers: an oracle whose answers nothing constrains (R51, U23), given as the list
of the answers it will give; or the reference receiver of R59, which compares its capture. -/
inductive Answers where
  | oracle (answers : List Bool)
  | reference (rule : MatchRule)
deriving DecidableEq, Repr

/-- The receiver behind the RX port. It is not the IRFC's: no register shows it (R31). `capture` and
`cursor` are `C` and `c` of R59. -/
structure Receiver where
  capture : List Symbol
  cursor  : Nat
  answers : Answers
deriving DecidableEq, Repr

/-- One line of a host script, or one act of the bench that drives the ports and the reset input (R84,
R85, R59, R190). -/
inductive Access where
  /-- `RD idx` (R42). -/
  | rd (idx : Nat)
  /-- `WR idx, v` (R43); a write of CMD starts an operation (R44). -/
  | wr (idx : Nat) (v : BitVec 32)
  /-- `LDFRAME` of the thirteen bytes of the frame word `w` (R85). -/
  | ldframe (w : BitVec 104)
  /-- The host writes one whole field byte into its byte of FRAME (R43, table T5). -/
  | wrfield (p : BytePlace) (c : BitVec 8)
  /-- The host writes byte 1 with its bits 7:3 replaced: RD, then WR (R42, R43, R62). -/
  | wrtemp (c : BitVec 5)
  /-- The host writes byte 1 with its bits 2:0 replaced: RD, then WR (R42, R43, R63). -/
  | wrswing (c : BitVec 3)
  /-- One more symbol reaches the receiver's capture (R31, R59), packed as in R86. -/
  | rxsymbol (w : BitVec 32)
  /-- `RXLOAD`: the receiver's capture list and cursor are set, by the bench (R85). -/
  | rxload (capture : List Symbol) (answers : Answers)
  /-- The reset input, applied from outside; no host access causes it (R190). -/
  | reset
deriving DecidableEq, Repr

/-- Why a step has no meaning. -/
inductive Refusal where
  /-- Raised by no arm of exec: every row of the opcode table has its meaning. Safe. -/
  | notModelled (mnemonic : String)
  /-- Raised by a host RD or WR of an index table T4 does not map: "A model refuses it (gives it no
  meaning)" (R45, U19). Safe: nothing is claimed of what the hardware does there. -/
  | unmappedIndex (idx : Nat)
deriving DecidableEq, Repr

/-- The IRFC has no fault: nothing stops it, "No entry below is `stuck`; the IRFC cannot hang" (R174,
spec/93_implementation_defined.md). A decode failure is a result code in a next state (R160). The type
is empty, so no step can answer one. -/
inductive Fault where
deriving DecidableEq, Repr

/-- The state. Fields of the IRFC: `st`, `frame`, `result`, `done`, `errpos` (table T3). Histories of R30:
`txlog`, `rxlog`. Outside the IRFC: `rx` (R31), `script` and `readLog` (the host's, R33, R42). The
model's own: `draws`. CMD holds nothing (R18) and `pos` lives only inside an operation, which is one
step (R14, R44): neither is a field. -/
structure State where
  /-- ST_POWER, ST_MODE, ST_FAN, ST_SWING, ST_TEMP (R20 to R25). -/
  st      : Snapshot
  /-- FRAME[0..12] (R11). -/
  frame   : Frame
  /-- STATUS.RESULT (R15). -/
  result  : Result
  /-- STATUS.DONE (R15). -/
  done    : Bool
  /-- ERRPOS (R19). -/
  errpos  : BitVec 7
  /-- TXLOG (R30). -/
  txlog   : List TxEvent
  /-- RXLOG (R30). -/
  rxlog   : List RxEvent
  /-- The receiver behind the RX port (R31). -/
  rx      : Receiver
  /-- The host's accesses still to come, the next one first (R33, R216). -/
  script  : List Access
  /-- What the host's RDs have returned so far, as (index, value), oldest first (R42). -/
  readLog : List (Nat × BitVec 32)
  /-- How many free values have been drawn, at failed scans and resets (R145, R37). The model's own field. -/
  draws   : Nat
deriving DecidableEq, Repr

/-- The machine right after reset (R37, R191): STATUS and ERRPOS 0, histories empty, ST_* and FRAME the
unspecified RESET_ST and RESET_FRAME, a receiver nothing is known of, and no host access yet. -/
def State.reset : State where
  st      := Config.resetSt 0
  frame   := Config.resetFrame 0
  result  := .ok
  done    := false
  errpos  := 0#7
  txlog   := []
  rxlog   := []
  rx      := ⟨Config.resetCapture, Config.resetCursor, .oracle Config.resetAnswers⟩
  script  := []
  readLog := []
  draws   := 0

end Sys2Proof.Machine
end

