-- ==== Sys2Proof/Machine/Ops.lean ====
section
/-! DEFINITION. The named operations over the registers and the two ports: register writes, the end of
an operation and `raise` (spec/60_exceptions.md R170), TX.Transmit (spec/20_memory.md R47), and the RX
queries with the receiver's cursor (R48 to R50, R59). -/

namespace Sys2Proof.Machine

/-- Write the five ST_* registers: `ST <- c`. -/
def State.setSt (s : State) (c : Snapshot) : State := { s with st := c }

/-- Write the thirteen FRAME registers: `x[0..12] <- f`. -/
def State.setFrame (s : State) (f : Frame) : State := { s with frame := f }

/-- Write one FRAME register: `x[i] <- v` (R8). -/
def State.setByte (s : State) (i : Fin 13) (v : Byte) : State := s.setFrame (s.frame.set i v)

/-- What every completed command writes to STATUS and ERRPOS (R16, R19). -/
def State.finish (s : State) (r : Result) (info : BitVec 7) : State :=
  { s with result := r, done := true, errpos := info }

/-- The end of an operation without failure: RESULT 0, DONE 1, ERRPOS 0 (R100, R130). -/
def State.complete (s : State) : State := s.finish .ok 0#7

/-- `raise E(info)`: this block's taking of a failure. RESULT, DONE and ERRPOS are written and nothing
else; nothing is saved and control goes nowhere, so there is nothing to return from (R170, R172). -/
def State.raise (s : State) (e : Result) (info : BitVec 7) : State := s.finish e info

/-- FRAME after a PDEC that did not read a whole frame: a free value, drawn afresh (R145, U14; log 2). -/
def State.drawFrame (s : State) : State :=
  { s with frame := Config.scanFrame s.draws, draws := s.draws + 1 }

/-- TX.Transmit(38000, L): one event, which cannot fail and returns nothing (R47, R136). -/
def State.transmit (s : State) (train : List Symbol) : State :=
  { s with txlog := s.txlog ++ [⟨CFG.carrierHz, train⟩] }

/-- `Match(nominal, observed)` of a rule (R7, R59). -/
def MatchRule.holds (m : MatchRule) (nominal observed : Nat) : Bool :=
  match m with
  | .exact => nominal == observed
  | .pairs accepted => accepted.contains (nominal, observed)
  | .parameter => Config.rxMatch nominal observed

/-- Whether a captured symbol matches a query: mark and space for ExpectItem, the mark alone for
ExpectMark (R48, R50). -/
def RxQuery.fits (q : RxQuery) (m : MatchRule) (y : Symbol) : Bool :=
  match q with
  | .item mk sp => m.holds mk y.mark && m.holds sp y.space
  | .mark mk => m.holds mk y.mark

/-- The receiver's answer to a query. A receiver with no further symbol answers absent (R49, R59). -/
def Receiver.present (r : Receiver) (q : RxQuery) : Bool :=
  match r.answers with
  | .oracle answers => answers.headD false
  | .reference m =>
    match r.capture[r.cursor]? with
    | some y => q.fits m y
    | none => false

/-- An oracle's answer is used up by the query it answers. -/
def Answers.spend : Answers → Answers
  | .oracle answers => .oracle answers.tail
  | .reference m => .reference m

/-- The receiver after a query: present consumes the matched symbol, absent consumes nothing (R49). -/
def Receiver.after (r : Receiver) (q : RxQuery) : Receiver where
  capture := r.capture
  cursor := if r.present q then r.cursor + 1 else r.cursor
  answers := r.answers.spend

/-- The RX port as one PDEC sees it: the receiver and RXLOG. -/
structure Line where
  rx  : Receiver
  log : List RxEvent
deriving DecidableEq, Repr

/-- Put a query to the receiver. -/
def Line.answer (l : Line) (q : RxQuery) : Bool := l.rx.present q

/-- The port after the query: the receiver has moved on and RXLOG holds query and answer (R30). -/
def Line.ask (l : Line) (q : RxQuery) : Line where
  rx := l.rx.after q
  log := l.log ++ [⟨q, l.rx.present q⟩]

/-- The RX port of a state. -/
def State.line (s : State) : Line := ⟨s.rx, s.rxlog⟩

/-- The state after the port traffic of a PDEC: queries made stay made, whatever the result (R170). -/
def State.hear (s : State) (l : Line) : State := { s with rx := l.rx, rxlog := l.log }

/-- The bench loads the receiver: capture list set, cursor 0 (R85, R59). -/
def State.loadReceiver (s : State) (capture : List Symbol) (answers : Answers) : State :=
  { s with rx := ⟨capture, 0, answers⟩ }

/-- One more symbol reaches the receiver: it stands last in its capture (R59). -/
def State.receive (s : State) (y : Symbol) : State :=
  { s with rx := { s.rx with capture := s.rx.capture ++ [y] } }

/-- The host gets `v` back from a read of register `idx` (R42). -/
def State.logRead (s : State) (idx : Nat) (v : BitVec 32) : State :=
  { s with readLog := s.readLog ++ [(idx, v)] }

/-- A reset of the block while the host has accesses left: registers and histories as after any reset
(R37, R191), the unspecified values drawn afresh. The receiver with its cursor "is not reset by the
IRFC" (R31), and what the host has read and has still to do is the host's: they stay. -/
def State.restart (s : State) : State :=
  { State.reset with
    st := Config.resetSt (s.draws + 1)
    frame := Config.resetFrame (s.draws + 1)
    rx := s.rx
    script := s.script
    readLog := s.readLog
    draws := s.draws + 1 }

/-- The host's remaining accesses. -/
def State.setScript (s : State) (rest : List Access) : State := { s with script := rest }

end Sys2Proof.Machine
end

