-- ==== Sys2Proof/Machine/Flags.lean ====
section
/-! DEFINITION. The flag computations of the IRFC: the result code and the STATUS word
(spec/10_state.md R15, table T2). There are no other flags (R17). -/

namespace Sys2Proof.Machine

/-- Table T2. -/
def Result.code (r : Result) : BitVec 3 :=
  match r with
  | .ok => 0#3
  | .headerMismatch => 1#3
  | .bitMismatch => 2#3
  | .footerMismatch => 3#3
  | .staticMismatch => 4#3
  | .checksumMismatch => 5#3
  | .illegalCommand => 7#3

/-- The four used bits of STATUS: DONE in bit 3, RESULT in bits 2:0 (R15). -/
def State.status (s : State) : BitVec 4 :=
  (if s.done then 8#4 else 0#4) ||| s.result.code.setWidth 4

end Sys2Proof.Machine
end

