-- ==== Sys2Proof/Machine/Fields.lean ====
section
/-! DEFINITION. The twenty field rows: a field code handed to the block is a host write of its byte of
FRAME (spec/20_memory.md R43; table T5), and for the two parts of byte 1 a read and a write of that
byte (R42, R43, R62, R63). It is also the assignment FrameEncode makes of that field (R101).
DESIGN CHOICE, log 7. -/

namespace Sys2Proof.Machine

/-- The byte of the frame a whole-byte field stands in (table T5). -/
def placeIndex (p : BytePlace) : Fin 13 :=
  match p with
  | .id0 => 0
  | .id2 => 2
  | .id3 => 3
  | .fan => 4
  | .mode => 6
  | .power => 9
  | .id10 => 10
  | .button => 11

/-- WR FRAME[byte of the place], c (R43). -/
def State.writeField (s : State) (p : BytePlace) (c : Byte) : State := s.setByte (placeIndex p) c

/-- Byte 1 with bits 7:3 replaced, bits 2:0 kept (R62, R78). -/
def State.writeTemp (s : State) (c : BitVec 5) : State :=
  s.setByte 1 (byte1 c (swingBits s.frame.b1))

/-- Byte 1 with bits 2:0 replaced, bits 7:3 kept (R63, R78). -/
def State.writeSwing (s : State) (c : BitVec 3) : State :=
  s.setByte 1 (byte1 (tempBits s.frame.b1) c)

/-- ID0 (R61). -/
def execId0 (s : State) : Host.Outcome State Fault Refusal :=
  .next (s.writeField .id0 CFG.id0)

/-- ID2 (R64). -/
def execId2 (s : State) : Host.Outcome State Fault Refusal :=
  .next (s.writeField .id2 CFG.id2)

/-- ID3 (R65). -/
def execId3 (s : State) : Host.Outcome State Fault Refusal :=
  .next (s.writeField .id3 CFG.id3)

/-- ID10 (R69). -/
def execId10 (s : State) : Host.Outcome State Fault Refusal :=
  .next (s.writeField .id10 CFG.id10)

/-- TEMP: all 32 values are legal (R78). -/
def execTemp (t : BitVec 5) (s : State) : Host.Outcome State Fault Refusal :=
  .next (s.writeTemp t)

/-- SWING.OFF (R76). -/
def execSwingOff (s : State) : Host.Outcome State Fault Refusal :=
  .next (s.writeSwing CFG.swingFixed)

/-- SWING.VERTICAL (R76). -/
def execSwingVertical (s : State) : Host.Outcome State Fault Refusal :=
  .next (s.writeSwing CFG.swingOn)

/-- FAN.AUTO (R74). -/
def execFanAuto (s : State) : Host.Outcome State Fault Refusal :=
  .next (s.writeField .fan CFG.fanAuto)

/-- FAN.LOW (R74). -/
def execFanLow (s : State) : Host.Outcome State Fault Refusal :=
  .next (s.writeField .fan CFG.fanLow)

/-- FAN.MEDIUM (R74). -/
def execFanMedium (s : State) : Host.Outcome State Fault Refusal :=
  .next (s.writeField .fan CFG.fanMedium)

/-- FAN.HIGH (R74). -/
def execFanHigh (s : State) : Host.Outcome State Fault Refusal :=
  .next (s.writeField .fan CFG.fanHigh)

/-- FAN.NONE (R66, R74). -/
def execFanNone (s : State) : Host.Outcome State Fault Refusal :=
  .next (s.writeField .fan 0x00#8)

/-- MODE.AUTO (R75). -/
def execModeAuto (s : State) : Host.Outcome State Fault Refusal :=
  .next (s.writeField .mode CFG.modeAuto)

/-- MODE.COOL (R75). -/
def execModeCool (s : State) : Host.Outcome State Fault Refusal :=
  .next (s.writeField .mode CFG.modeCool)

/-- MODE.HEAT (R75). -/
def execModeHeat (s : State) : Host.Outcome State Fault Refusal :=
  .next (s.writeField .mode CFG.modeHeat)

/-- MODE.DRY (R75). -/
def execModeDry (s : State) : Host.Outcome State Fault Refusal :=
  .next (s.writeField .mode CFG.modeDry)

/-- MODE.FANONLY (R75). -/
def execModeFanonly (s : State) : Host.Outcome State Fault Refusal :=
  .next (s.writeField .mode CFG.modeFan)

/-- POWER.ON (R77). -/
def execPowerOn (s : State) : Host.Outcome State Fault Refusal :=
  .next (s.writeField .power CFG.powerOn)

/-- POWER.OFF (R77). -/
def execPowerOff (s : State) : Host.Outcome State Fault Refusal :=
  .next (s.writeField .power CFG.powerOff)

/-- BUTTON (R71). -/
def execButton (s : State) : Host.Outcome State Fault Refusal :=
  .next (s.writeField .button CFG.button)

end Sys2Proof.Machine
end

