-- ==== Sys2Proof/Machine/FrameWords.lean ====
section
/-! DEFINITION. The two frame rows: a frame handed to the block is thirteen host writes of FRAME
(spec/30_encoding.md R85 LDFRAME, R86; spec/20_memory.md R43). DESIGN CHOICE, log 7: the table lists the
frame as an encoding; what runs here is the host script that puts it where FDEC and PENC read it. -/

namespace Sys2Proof.Machine

/-- LDFRAME b0 ... b12 = WR FRAME[0], b0; ...; WR FRAME[12], b12 (R85). -/
def State.ldframe (s : State) (f : Frame) : State := s.setFrame f

/-- FRAME: LDFRAME of a frame that carries the identifier bytes (R73). -/
def execFrame (swing : BitVec 3) (temp : BitVec 5)
    (fan byte5 mode byte7 byte8 power btn checksum : Byte) (s : State) :
    Host.Outcome State Fault Refusal :=
  .next (s.ldframe ⟨CFG.id0, byte1 temp swing, CFG.id2, CFG.id3, fan, byte5, mode, byte7, byte8,
    power, CFG.id10, btn, checksum⟩)

/-- FRAME.ENCODED: LDFRAME of a frame of FrameEncode's form, bytes 5, 7, 8 zero and the button
constant in byte 11 (R101, R70, R71). -/
def execFrameEncoded (swing : BitVec 3) (temp : BitVec 5) (fan mode power checksum : Byte)
    (s : State) : Host.Outcome State Fault Refusal :=
  .next (s.ldframe ⟨CFG.id0, byte1 temp swing, CFG.id2, CFG.id3, fan, 0x00#8, mode, 0x00#8, 0x00#8,
    power, CFG.id10, CFG.button, checksum⟩)

end Sys2Proof.Machine
end

