-- ==== Sys2Proof/Machine/FrameCodec.lean ====
section
/-! DEFINITION. The frame codec unit: Checksum, FrameEncode, FrameDecode, FENC and FDEC
(spec/40_frame_codec.md R100 to R122). -/

namespace Sys2Proof

/-- `Checksum(f) = (f[0] + ... + f[11]) mod 256`: twelve u8 additions, each discarding its carry; byte
12 is not in the sum and nothing is masked (R72, R104). -/
def checksum (f : Frame) : Byte :=
  f.b0 + f.b1 + f.b2 + f.b3 + f.b4 + f.b5 + f.b6 + f.b7 + f.b8 + f.b9 + f.b10 + f.b11

/-- A well-formed frame: "the four identifier bytes match their constants and byte 12 equals the sum of
bytes 0-11 mod 256" (R73). -/
def Frame.wellFormed (f : Frame) : Bool := f.idsMatch && f.b12 == checksum f

/-- FrameEncode (R101): byte 12 is computed last, from the final values of bytes 0 to 11. -/
def frameEncode (c : Snapshot) : Frame :=
  let f : Frame :=
    { Frame.zero with
      b0 := CFG.id0
      b2 := CFG.id2
      b3 := CFG.id3
      b10 := CFG.id10
      b11 := CFG.button
      b1 := byte1 (tempField c.temp) (swingCode c.swing)
      b4 := fanCode c.fan
      b6 := if c.power = 1#1 then modeCode c.mode else 0x00#8
      b9 := powerCode c.power }
  { f with b12 := checksum f }

/-- The result of FrameDecode: a snapshot, or one of the two structural failures (R111). -/
inductive Decoded where
  | ok (c : Snapshot)
  | staticMismatch
  | checksumMismatch
deriving DecidableEq, Repr

/-- Step 3 and step 4 of decode: the reading of a well-formed frame over the previous snapshot.
"ignore unknown, keep previous" (R114 to R119). -/
def interpret (f : Frame) (prev : Snapshot) : Snapshot :=
  if powerOf f.b9 = 1#1 then
    { power := 1#1
      temp := tempOf (tempBits f.b1)
      swing := (swingOf (swingBits f.b1)).getD prev.swing
      fan := (fanOf f.b4).getD prev.fan
      mode := (modeOf f.b6).getD prev.mode }
  else
    { prev with power := 0#1, mode := 5#3 }

/-- FrameDecode (R111): identifier bytes (R112), then checksum (R113), then the fields. -/
def frameDecode (f : Frame) (prev : Snapshot) : Decoded :=
  if f.idsMatch then
    if checksum f = f.b12 then .ok (interpret f prev) else .checksumMismatch
  else .staticMismatch

namespace Machine

/-- How a command ends on the outcome of FrameDecode: on success ST_* get the produced snapshot; on
failure nothing but STATUS and ERRPOS is written (R110, R144, R170). -/
def State.settle (s : State) (d : Decoded) : State :=
  match d with
  | .ok c => (s.setSt c).complete
  | .staticMismatch => s.raise .staticMismatch 0#7
  | .checksumMismatch => s.raise .checksumMismatch 0#7

/-- FENC on a state (R100). -/
def State.fenc (s : State) : State := (s.setFrame (frameEncode s.st)).complete

/-- FENC: FRAME <- FrameEncode(ST), always Ok (R100, R109). -/
def execFenc (_ign : BitVec 29) (s : State) : Host.Outcome State Fault Refusal :=
  .next s.fenc

/-- FDEC: FrameDecode of FRAME with ST_* as the previous snapshot (R110). -/
def execFdec (_ign : BitVec 29) (s : State) : Host.Outcome State Fault Refusal :=
  .next (s.settle (frameDecode s.frame s.st))

end Machine
end Sys2Proof
end

