-- ==== Sys2Proof/Machine/PulseCodec.lean ====
section
/-! DEFINITION. The pulse codec unit: PulseEncode, PulseDecode's linear scan, PENC, XMIT and PDEC
(spec/41_pulse_codec.md R130 to R149). -/

namespace Sys2Proof

/-- PulseEncode (R131): header, the data bits byte 0 first and bit 0 first, footer. -/
def pulseEncode (f : Frame) : List Symbol :=
  [hdrSymbol] ++ f.bits.map bitSymbol ++ [ftrSymbol]

namespace Machine

/-- The header query (R141). -/
def queryHeader : RxQuery := .item CFG.hdrMark CFG.hdrSpace

/-- The one-bit query, made first (R149). -/
def queryOne : RxQuery := .item CFG.bitMark CFG.oneSpace

/-- The zero-bit query, made only when the one-bit query was answered absent (R149). -/
def queryZero : RxQuery := .item CFG.bitMark CFG.zeroSpace

/-- The footer query: the mark alone (R143). -/
def queryFooter : RxQuery := .mark CFG.ftrMark

/-- What the linear scan over the received symbols comes to (R140). -/
inductive Scan where
  /-- pos 0 failed (R141). -/
  | headerMismatch
  /-- pos 1 + k failed (R142). -/
  | bitMismatch (k : Nat)
  /-- pos 105 failed (R143). -/
  | footerMismatch
  /-- pos 106 reached: the thirteen assembled bytes (R144). -/
  | read (f : Frame)
deriving DecidableEq, Repr

/-- Step 2 of the scan: `n` data bits still to come, the next is bit `k`, at pos `1 + k` (R142, R149).
The answer is the assembled buffer, or the index of the first bit that matched neither pair. -/
def scanBits (n k : Nat) (buf : Frame) (l : Line) : Except Nat Frame × Line :=
  match n with
  | 0 => (.ok buf, l)
  | n + 1 =>
    if l.answer queryOne then scanBits n (k + 1) (buf.setBit k) (l.ask queryOne)
    else
      let l' := l.ask queryOne
      if l'.answer queryZero then scanBits n (k + 1) buf (l'.ask queryZero)
      else (.error k, l'.ask queryZero)

/-- Steps 1 to 3 of PulseDecode: the linear scan of pos from 0 to 106, ended by the first symbol that
does not fit (R140 to R143, R146). -/
def scan (l : Line) : Scan × Line :=
  if l.answer queryHeader then
    match scanBits CFG.dataBits 0 Frame.zero (l.ask queryHeader) with
    | (.error k, l') => (.bitMismatch k, l')
    | (.ok buf, l') =>
      if l'.answer queryFooter then (.read buf, l'.ask queryFooter)
      else (.footerMismatch, l'.ask queryFooter)
  else (.headerMismatch, l.ask queryHeader)

/-- How a PDEC ends on the outcome of its scan: a frame read whole goes to FRAME and to FrameDecode
(R144, R145); a failed scan leaves FRAME unspecified and raises (R145, R161 to R163). -/
def State.endScan (s : State) (o : Scan) : State :=
  match o with
  | .headerMismatch => s.drawFrame.raise .headerMismatch 0#7
  | .bitMismatch k => s.drawFrame.raise .bitMismatch (BitVec.ofNat 7 k)
  | .footerMismatch => s.drawFrame.raise .footerMismatch 0#7
  | .read f => (s.setFrame f).settle (frameDecode f s.st)

/-- PENC on a state (R130). -/
def State.penc (s : State) : State := (s.transmit (pulseEncode s.frame)).complete

/-- PENC: one TX.Transmit event with the train of FRAME, unchecked, always Ok (R130, R137). -/
def execPenc (_ign : BitVec 29) (s : State) : Host.Outcome State Fault Refusal :=
  .next s.penc

/-- XMIT: FENC and then PENC as one operation (R138). -/
def execXmit (_ign : BitVec 29) (s : State) : Host.Outcome State Fault Refusal :=
  .next s.fenc.penc

/-- PDEC: the scan of the RX port, then FrameDecode (R140). -/
def execPdec (_ign : BitVec 29) (s : State) : Host.Outcome State Fault Refusal :=
  .next ((s.hear (scan s.line).2).endScan (scan s.line).1)

end Machine
end Sys2Proof
end

