-- ==== Sys2Proof/Machine/Reserved.lean ====
section
/-! DEFINITION. The reserved command codes 0, 6 and 7 (spec/30_encoding.md R81,
spec/60_exceptions.md R166). -/

namespace Sys2Proof.Machine

/-- RESERVED.0: IllegalCommand, and no other state change and no port event (R81, R166). -/
def execReserved0 (_ign : BitVec 29) (s : State) : Host.Outcome State Fault Refusal :=
  .next (s.raise .illegalCommand 0#7)

/-- RESERVED.6_7: IllegalCommand, and no other state change and no port event (R81, R166). -/
def execReserved67 (_ign : BitVec 29) (_low : BitVec 1) (s : State) :
    Host.Outcome State Fault Refusal :=
  .next (s.raise .illegalCommand 0#7)

end Sys2Proof.Machine
end

