-- ==== Sys2Proof/Machine/Symbols.lean ====
section
/-! DEFINITION. The four symbol rows: a pulse symbol handed to the block is one more symbol at the
receiver, last in its capture (spec/20_memory.md R49, R59; spec/30_encoding.md R79). DESIGN CHOICE,
log 7. The IRFC itself sees it only when a PDEC asks. -/

namespace Sys2Proof.Machine

/-- HDR (table T8, R79). -/
def execHdr (s : State) : Host.Outcome State Fault Refusal :=
  .next (s.receive hdrSymbol)

/-- ZERO (table T8, R79). -/
def execZero (s : State) : Host.Outcome State Fault Refusal :=
  .next (s.receive zeroSymbol)

/-- ONE (table T8, R79). -/
def execOne (s : State) : Host.Outcome State Fault Refusal :=
  .next (s.receive oneSymbol)

/-- FTR (table T8, R79). -/
def execFtr (s : State) : Host.Outcome State Fault Refusal :=
  .next (s.receive ftrSymbol)

end Sys2Proof.Machine
end

