-- ==== Sys2Proof/Machine/Dispatch.lean ====
section
/-! DEFINITION. One arm per row of the opcode table. -/

namespace Sys2Proof.Machine

def exec (i : Instr) (s : State) : Host.Outcome State Fault Refusal :=
  match i with
  | .fenc ign => Sys2Proof.Machine.execFenc ign s
  | .fdec ign => Sys2Proof.Machine.execFdec ign s
  | .penc ign => Sys2Proof.Machine.execPenc ign s
  | .pdec ign => Sys2Proof.Machine.execPdec ign s
  | .xmit ign => Sys2Proof.Machine.execXmit ign s
  | .reserved0 ign => Sys2Proof.Machine.execReserved0 ign s
  | .reserved67 ign low => Sys2Proof.Machine.execReserved67 ign low s
  | .frame swing temp fan byte5 mode byte7 byte8 power btn checksum => Sys2Proof.Machine.execFrame swing temp fan byte5 mode byte7 byte8 power btn checksum s
  | .frameEncoded swing temp fan mode power checksum => Sys2Proof.Machine.execFrameEncoded swing temp fan mode power checksum s
  | .id0 => Sys2Proof.Machine.execId0 s
  | .id2 => Sys2Proof.Machine.execId2 s
  | .id3 => Sys2Proof.Machine.execId3 s
  | .id10 => Sys2Proof.Machine.execId10 s
  | .temp t => Sys2Proof.Machine.execTemp t s
  | .swingOff => Sys2Proof.Machine.execSwingOff s
  | .swingVertical => Sys2Proof.Machine.execSwingVertical s
  | .fanAuto => Sys2Proof.Machine.execFanAuto s
  | .fanLow => Sys2Proof.Machine.execFanLow s
  | .fanMedium => Sys2Proof.Machine.execFanMedium s
  | .fanHigh => Sys2Proof.Machine.execFanHigh s
  | .fanNone => Sys2Proof.Machine.execFanNone s
  | .modeAuto => Sys2Proof.Machine.execModeAuto s
  | .modeCool => Sys2Proof.Machine.execModeCool s
  | .modeHeat => Sys2Proof.Machine.execModeHeat s
  | .modeDry => Sys2Proof.Machine.execModeDry s
  | .modeFanonly => Sys2Proof.Machine.execModeFanonly s
  | .powerOn => Sys2Proof.Machine.execPowerOn s
  | .powerOff => Sys2Proof.Machine.execPowerOff s
  | .button => Sys2Proof.Machine.execButton s
  | .hdr => Sys2Proof.Machine.execHdr s
  | .zero => Sys2Proof.Machine.execZero s
  | .one => Sys2Proof.Machine.execOne s
  | .ftr => Sys2Proof.Machine.execFtr s

end Sys2Proof.Machine
end

