-- ==== Sys2Proof/Machine/Access.lean ====
section
/-! DEFINITION. The host register space (spec/20_memory.md R40 to R46, table T4), one line of a host
script, and the acts of the bench (spec/30_encoding.md R84, R85). Each line that carries a word of the
opcode table runs that row; the host may write any other bytes, and the air may carry any symbol. -/

namespace Sys2Proof.Machine

/-- The 21 registers of table T4. -/
inductive Reg where
  | cmd | status | errpos | stPower | stMode | stFan | stSwing | stTemp
  | frame (i : Fin 13)
deriving DecidableEq, Repr

/-- Table T4: which register an index names; none for 0x03, 0x09 to 0x0F, 0x1D and above (R40, R45). -/
def regAt (idx : Nat) : Option Reg :=
  if idx = 0x00 then some .cmd
  else if idx = 0x01 then some .status
  else if idx = 0x02 then some .errpos
  else if idx = 0x04 then some .stPower
  else if idx = 0x05 then some .stMode
  else if idx = 0x06 then some .stFan
  else if idx = 0x07 then some .stSwing
  else if idx = 0x08 then some .stTemp
  else if 0x10 ≤ idx ∧ idx ≤ 0x1C then some (.frame (Fin.ofNat 13 (idx - 0x10)))
  else none

/-- `MemRead`: the register's value, widened with zeros to 32 bits; 0 for CMD (R42). -/
def State.readReg (s : State) (r : Reg) : BitVec 32 :=
  match r with
  | .cmd => 0#32
  | .status => s.status.setWidth 32
  | .errpos => s.errpos.setWidth 32
  | .stPower => s.st.power.setWidth 32
  | .stMode => s.st.mode.setWidth 32
  | .stFan => s.st.fan.setWidth 32
  | .stSwing => s.st.swing.setWidth 32
  | .stTemp => s.st.temp.setWidth 32
  | .frame i => (s.frame.get i).setWidth 32

/-- `MemWrite` of any register but CMD: truncated to the register's width; STATUS and ERRPOS ignore it
(R43). CMD stores nothing (R18): its write is an operation, in `perform`. -/
def State.writeReg (s : State) (r : Reg) (v : BitVec 32) : State :=
  match r with
  | .cmd => s
  | .status => s
  | .errpos => s
  | .stPower => s.setSt { s.st with power := v.setWidth 1 }
  | .stMode => s.setSt { s.st with mode := v.setWidth 3 }
  | .stFan => s.setSt { s.st with fan := v.setWidth 3 }
  | .stSwing => s.setSt { s.st with swing := v.setWidth 1 }
  | .stTemp => s.setSt { s.st with temp := v.setWidth 6 }
  | .frame i => s.setByte i (v.setWidth 8)

/-- One line of the host's script, taken to its end (R44). -/
def perform (a : Access) (s : State) : Host.Outcome State Fault Refusal :=
  match a with
  | .rd idx =>
    match regAt idx with
    | some r => .next (s.logRead idx (s.readReg r))
    | none => .refused (.unmappedIndex idx)
  | .wr idx v =>
    match regAt idx with
    | some .cmd => exec (decodeCmd v) s
    | some r => .next (s.writeReg r v)
    | none => .refused (.unmappedIndex idx)
  | .ldframe w =>
    match decodeFrame w with
    | .ok i => exec i s
    | .error _ => .next (s.ldframe (Frame.ofWord w))
  | .wrfield p c =>
    match decodeField8 p c with
    | .ok i => exec i s
    | .error _ => .next (s.writeField p c)
  | .wrtemp c => exec (.temp c) s
  | .wrswing c =>
    match decodeField3 c with
    | .ok i => exec i s
    | .error _ => .next (s.writeSwing c)
  | .rxsymbol w =>
    match decodeSymbol w with
    | .ok i => exec i s
    | .error _ => .next (s.receive (Symbol.ofWord w))
  | .rxload capture answers => .next (s.loadReceiver capture answers)
  | .reset => .next s.restart

/-- The line of a host script that hands a table word to the block (R43, R85, R59). -/
def accessOf (t : TableWord) : Access :=
  match t with
  | .cmd v => .wr 0x00 v
  | .frame w => .ldframe w
  | .field8 p c => .wrfield p c
  | .field5 c => .wrtemp c
  | .field3 c => .wrswing c
  | .symbol w => .rxsymbol w

/-- The next step of the machine: the host's next access. With none left the block is at rest, for
nothing but a host access moves it (R44, R46, R216). -/
def State.advance (s : State) : Host.Outcome State Fault Refusal :=
  match s.script with
  | [] => .next s
  | a :: rest => perform a (s.setScript rest)

/-- `s` with the host about to hand the table word `w` of `nbits` bits to the block; unchanged where
the bits are no table word. It stands for the host, which holds the program (R33); log 6. -/
def State.placeWord (s : State) (nbits w : Nat) : State :=
  match tableWord nbits w with
  | some t => s.setScript (accessOf t :: s.script)
  | none => s

end Sys2Proof.Machine
end

