-- ==== Sys2Proof/Machine/Step.lean ====
section
/-! DEFINITION. One step: the host's next access, taken to its end (spec/20_memory.md R44). -/

namespace Sys2Proof.Machine

/-- "one host CMD write is one transition of the whole register state" (R44); so is every other line of
the script. -/
def step (s : State) : Host.Outcome State Fault Refusal := s.advance

/-- `s` with the word `w` of a table row standing where step takes its next instruction: at the head
of the host's script. -/
def State.withFetchWord (s : State) (nbits w : Nat) : State := s.placeWord nbits w

end Sys2Proof.Machine
end

