-- ==== Sys2Proof/Safety.lean ====
section
/-! DEFINITION. The terms claims use: supported snapshots (spec/10_state.md R27), the named hypotheses on
a receiver (spec/20_memory.md R51), and the invariant of every state. -/

namespace Sys2Proof

/-- "A snapshot is consistent when ST.power == (ST.mode != Off)" (R27). -/
def Snapshot.consistent (c : Snapshot) : Prop := c.power = 1#1 ↔ c.mode ≠ 5#3

/-- A supported snapshot, the premise a claim about an encode should take (R27, R208). -/
structure Snapshot.Supported (c : Snapshot) : Prop where
  consistent : c.consistent
  mode       : c.mode.toNat ≤ 5
  fan        : c.fan.toNat ≤ 3
  tempLow    : 16 ≤ c.temp.toNat
  tempHigh   : c.temp.toNat ≤ 30

namespace Machine

/-- `MatchRefl`: "Match(n, n) = true for every nominal duration n of CFG" (R51). -/
def MatchRule.Refl (m : MatchRule) : Prop :=
  ∀ n ∈ [8960, 4485, 625, 685, 1935, 0], m.holds n n = true

/-- `MatchDisjoint`: "no observed duration matches both CFG.ONE_SPACE and CFG.ZERO_SPACE" (R51). -/
def MatchRule.Disjoint (m : MatchRule) : Prop :=
  ∀ o, ¬ (m.holds 1935 o = true ∧ m.holds 685 o = true)

/-- `RxIsList`: the receiver is the reference receiver and the symbols from its cursor on are `c` (R51,
R59). -/
def Receiver.Holds (r : Receiver) (c : List Symbol) (m : MatchRule) : Prop :=
  r.answers = .reference m ∧ r.capture.drop r.cursor = c

/-- The row is one of those a CMD write selects (table T9). -/
def isCommand : Instr → Bool
  | .fenc _ | .fdec _ | .penc _ | .pdec _ | .xmit _ | .reserved0 _ | .reserved67 _ _ => true
  | .frame .. | .frameEncoded .. => false
  | .id0 | .id2 | .id3 | .id10 | .temp _ | .swingOff | .swingVertical => false
  | .fanAuto | .fanLow | .fanMedium | .fanHigh | .fanNone => false
  | .modeAuto | .modeCool | .modeHeat | .modeDry | .modeFanonly | .powerOn | .powerOff | .button => false
  | .hdr | .zero | .one | .ftr => false

/-- The indices table T4 does not map (R45). -/
def Unmapped (idx : Nat) : Prop := idx = 0x03 ∨ (0x09 ≤ idx ∧ idx ≤ 0x0F) ∨ 0x1D ≤ idx

/-- The access is a read or write of an unmapped index. -/
def Access.Unmapped : Access → Prop
  | .rd idx => Machine.Unmapped idx
  | .wr idx _ => Machine.Unmapped idx
  | .ldframe _ | .wrfield _ _ | .wrtemp _ | .wrswing _ | .rxsymbol _ | .rxload _ _ | .reset => False

/-- What every step keeps. -/
structure State.Inv (s : State) : Prop where
  /-- "DONE is 1 once any command has completed since reset": before that, RESULT is 0 (R15, R37). -/
  fresh : s.done = false → s.result = .ok
  /-- ERRPOS is 0 after any result but BitMismatch (R19). -/
  errpos_zero : s.result ≠ .bitMismatch → s.errpos = 0#7
  /-- ERRPOS is a data bit index (R19). -/
  errpos_lt : s.errpos.toNat < 104
  /-- Every train sent is the train of some frame, at 38 kHz (R130, R136). -/
  tx : ∀ e ∈ s.txlog, e.hz = 38000 ∧ ∃ f, e.train = pulseEncode f
  /-- The IRFC puts no query but its four nominal ones (R147). -/
  rx : ∀ e ∈ s.rxlog, e.query ∈ [.item 8960 4485, .item 625 1935, .item 625 685, .mark 625]

end Machine
end Sys2Proof
end

