-- ==== Sys2Proof/Certificates/Slice0/Obligations.lean ====
section
/-! DEFINITION. The statements for the provers. Numbers stand as the spec's rules print them, not as
names of the model, so that a wrong constant or a swapped field makes a statement false. -/

namespace Sys2Proof.Claims

open Sys2Proof Sys2Proof.Machine

/-- The codes of table T2. -/
def resultCode : Result → Nat
  | .ok => 0
  | .headerMismatch => 1
  | .bitMismatch => 2
  | .footerMismatch => 3
  | .staticMismatch => 4
  | .checksumMismatch => 5
  | .illegalCommand => 7

/-- The sum of bytes 0 to 11, over Nat (R104). -/
def sum12 (f : Frame) : Nat :=
  f.b0.toNat + f.b1.toNat + f.b2.toNat + f.b3.toNat + f.b4.toNat + f.b5.toNat + f.b6.toNat
    + f.b7.toNat + f.b8.toNat + f.b9.toNat + f.b10.toNat + f.b11.toNat

/-- The four identifier bytes (R112). -/
def Identified (f : Frame) : Prop :=
  f.b0 = 0xC3#8 ∧ f.b2 = 0x20#8 ∧ f.b3 = 0x12#8 ∧ f.b10 = 0x20#8

/-- The predicate WellFormed of R73. -/
def IsWellFormed (f : Frame) : Prop := Identified f ∧ f.b12.toNat = sum12 f % 256

/-- The operation of table T9 that the value `v` selects, with bits 31:3 kept as its unread operand. -/
def selected (v : BitVec 32) : Instr :=
  let ign := BitVec.ofNat 29 (v.toNat / 8)
  match v.toNat % 8 with
  | 1 => .fenc ign
  | 2 => .fdec ign
  | 3 => .penc ign
  | 4 => .pdec ign
  | 5 => .xmit ign
  | 0 => .reserved0 ign
  | n => .reserved67 ign (BitVec.ofNat 1 n)

/-- The premise of the source's round trip: power on, a table mode, a table fan speed, 16 to 30
degrees (R121 a). -/
def RoundTrips (c : Snapshot) : Prop :=
  c.power = 1#1 ∧ c.mode.toNat ≤ 4 ∧ c.fan.toNat ≤ 3 ∧ 16 ≤ c.temp.toNat ∧ c.temp.toNat ≤ 30

/-- The answers that spell data bits: present for a 1; absent then present for a 0 (R142, R149). -/
def answersFor (bs : List Bool) : List Bool := bs.flatMap fun b => if b then [true] else [false, true]

/-- The queries and answers of those bits, as RXLOG records them (R147). -/
def queriesFor (bs : List Bool) : List RxEvent :=
  bs.flatMap fun b => if b then [⟨.item 625 1935, true⟩]
    else [⟨.item 625 1935, false⟩, ⟨.item 625 685, true⟩]

/-- Data bit k of a frame: bit k mod 8 of byte k div 8 (R52). -/
def dataBit (f : Frame) (k : Nat) : Bool := (f.bytes.getD (k / 8) 0#8).getLsbD (k % 8)

/-- The state after `raise E(info)` in state `s` (R170). -/
def failed (s : State) (e : Result) (info : BitVec 7) : State :=
  { s with result := e, done := true, errpos := info }

/-- The state after an operation that ends Ok in state `s` (R16, R19). -/
def succeeded (s : State) : State := { s with result := .ok, done := true, errpos := 0#7 }

/-- The field rows of the opcode table: byte, lowest bit, width, code. -/
def fieldRow : Instr → Option (Fin 13 × Nat × Nat × Nat)
  | .id0 => some (0, 0, 8, 0xC3)
  | .id2 => some (2, 0, 8, 0x20)
  | .id3 => some (3, 0, 8, 0x12)
  | .id10 => some (10, 0, 8, 0x20)
  | .temp t => some (1, 3, 5, t.toNat)
  | .swingOff => some (1, 0, 3, 0x0)
  | .swingVertical => some (1, 0, 3, 0x7)
  | .fanAuto => some (4, 0, 8, 0xA0)
  | .fanLow => some (4, 0, 8, 0x20)
  | .fanMedium => some (4, 0, 8, 0x40)
  | .fanHigh => some (4, 0, 8, 0x60)
  | .fanNone => some (4, 0, 8, 0x00)
  | .modeAuto => some (6, 0, 8, 0x00)
  | .modeCool => some (6, 0, 8, 0x20)
  | .modeHeat => some (6, 0, 8, 0x80)
  | .modeDry => some (6, 0, 8, 0x40)
  | .modeFanonly => some (6, 0, 8, 0xC0)
  | .powerOn => some (9, 0, 8, 0x20)
  | .powerOff => some (9, 0, 8, 0x00)
  | .button => some (11, 0, 8, 0x05)
  | .fenc _ | .fdec _ | .penc _ | .pdec _ | .xmit _ | .reserved0 _ | .reserved67 _ _ => none
  | .frame .. | .frameEncoded .. | .hdr | .zero | .one | .ftr => none

/-- The symbol rows of the opcode table: mark and space (table T8). -/
def symbolRow : Instr → Option (Nat × Nat)
  | .hdr => some (8960, 4485)
  | .zero => some (625, 685)
  | .one => some (625, 1935)
  | .ftr => some (625, 0)
  | .fenc _ | .fdec _ | .penc _ | .pdec _ | .xmit _ | .reserved0 _ | .reserved67 _ _ => none
  | .frame .. | .frameEncoded .. | .id0 | .id2 | .id3 | .id10 | .temp _ | .swingOff | .swingVertical => none
  | .fanAuto | .fanLow | .fanMedium | .fanHigh | .fanNone | .modeAuto | .modeCool | .modeHeat => none
  | .modeDry | .modeFanonly | .powerOn | .powerOff | .button => none

/-- The field rows that stand for a snapshot of the round trip's premise. -/
def rowsOf (c : Snapshot) : List Instr :=
  [.id0, .temp (BitVec.ofNat 5 (c.temp.toNat - 8)),
    if c.swing = 1#1 then .swingVertical else .swingOff,
    .id2, .id3,
    if c.fan = 0#3 then .fanAuto else if c.fan = 1#3 then .fanLow
      else if c.fan = 2#3 then .fanMedium else .fanHigh,
    if c.mode = 0#3 then .modeAuto else if c.mode = 1#3 then .modeCool
      else if c.mode = 2#3 then .modeHeat else if c.mode = 3#3 then .modeDry else .modeFanonly,
    .powerOn, .id10, .button]

/-- Rows run one after another, while each answers a next state. -/
def runRows : List Instr → State → Option State
  | [], s => some s
  | i :: is, s =>
    match exec i s with
    | .next t => runRows is t
    | .fault _ => none
    | .refused _ => none

/-- The width of the read-write register at an index (table T4). -/
def widthAt (idx : Nat) : Option Nat :=
  if idx = 0x04 then some 1
  else if idx = 0x05 then some 3
  else if idx = 0x06 then some 3
  else if idx = 0x07 then some 1
  else if idx = 0x08 then some 6
  else if 0x10 ≤ idx ∧ idx ≤ 0x1C then some 8
  else none

end Sys2Proof.Claims

open Sys2Proof Sys2Proof.Machine Sys2Proof.Claims

/-! ## Reset, steps and the host's accesses -/

/-- R37, R190, R191, the values they give: after reset STATUS, ERRPOS and CMD read 0 and both histories are
empty; and so does a reset applied in any state, which leaves the receiver and its cursor (R31), the host's
script and what the host has read. -/
def Obligations.ResetLeavesStatusErrposAndHistoriesClear : Prop :=
  (∀ idx, idx ≤ 2 → ∀ rest, ∃ t,
      step { State.reset with script := .rd idx :: rest } = .next t ∧ t.readLog = [(idx, 0#32)]) ∧
    State.reset.txlog = [] ∧ State.reset.rxlog = [] ∧
    ∀ (s : State) (rest : List Access), ∃ t,
      step { s with script := .reset :: rest } = .next t ∧ t.result = .ok ∧ t.done = false ∧
        t.errpos = 0#7 ∧ t.txlog = [] ∧ t.rxlog = [] ∧ t.rx = s.rx ∧ t.script = rest ∧
        t.readLog = s.readLog

/-- The invariant holds at reset. -/
def Obligations.ResetMeetsTheInvariant : Prop := State.reset.Inv

/-- Every step keeps the invariant, from every state that meets it, reachable or not. -/
def Obligations.StepKeepsTheInvariant : Prop :=
  ∀ s t : State, s.Inv → step s = .next t → t.Inv

/-- A step whose next access carries a word that decodes to `i` is exec of `i`, with that access taken
off the script and nothing else done. -/
def Obligations.StepRunsTheDecodedInstruction : Prop :=
  ∀ (s : State) (w : TableWord) (i : Instr) (rest : List Access),
    s.script = accessOf w :: rest → decode w = .ok i → step s = exec i { s with script := rest }

/-- R44, R46: nothing but a host access moves the block. With none left a step changes nothing. -/
def Obligations.StepWithoutAnAccessChangesNothing : Prop :=
  ∀ s : State, s.script = [] → step s = .next s

/-- A step is refused exactly when its access reads or writes one of the indices 0x03, 0x09 to 0x0F, 0x1D
and above: R45 gives that those are. That no other step is refused and none faults is R42, R43, R44 and R174
with the model's choices: a reserved command code has its effect (log 9, R81), and an empty script and a
reset are steps (log 6). -/
def Obligations.StepIsRefusedExactlyAtUnmappedIndices : Prop :=
  ∀ s : State,
    ((∃ r, step s = .refused r) ↔
      ∃ idx rest, (s.script = .rd idx :: rest ∨ ∃ v, s.script = .wr idx v :: rest) ∧
        (idx = 0x03 ∨ (0x09 ≤ idx ∧ idx ≤ 0x0F) ∨ 0x1D ≤ idx)) ∧
    ((∀ r, step s ≠ .refused r) → ∃ t, step s = .next t)

/-- R216: a run of n accesses, none to an unmapped index, ends after n transitions with the script used up.
That a reserved command code does not stop it is the model's choice, log 9; the script is log 6. -/
def Obligations.RunOfMappedAccessesEnds : Prop :=
  ∀ s : State, (∀ a ∈ s.script, ¬ a.Unmapped) →
    ∃ t : State, Host.Core.run Sys2Proof.core s.script.length s = .next t ∧ t.script = []

/-- R42: RD returns the register's value widened with zeros, 0 for CMD, and changes no register. -/
def Obligations.HostReadReturnsTheRegister : Prop :=
  ∀ (s : State) (rest : List Access),
    let returns (idx v : Nat) : Prop :=
      step { s with script := .rd idx :: rest } =
        .next { s with script := rest, readLog := s.readLog ++ [(idx, BitVec.ofNat 32 v)] }
    returns 0x00 0 ∧
    returns 0x01 ((if s.done then 8 else 0) + resultCode s.result) ∧
    returns 0x02 s.errpos.toNat ∧
    returns 0x04 s.st.power.toNat ∧
    returns 0x05 s.st.mode.toNat ∧
    returns 0x06 s.st.fan.toNat ∧
    returns 0x07 s.st.swing.toNat ∧
    returns 0x08 s.st.temp.toNat ∧
    ∀ i : Fin 13, returns (0x10 + i.val) (s.frame.get i).toNat

/-- R43: WR stores the value truncated to the register's width and does nothing else; STATUS and ERRPOS
ignore it; a write to CMD starts the operation it selects. -/
def Obligations.HostWriteStoresTheTruncatedValue : Prop :=
  ∀ (s : State) (v : BitVec 32) (rest : List Access),
    let leaves (idx : Nat) (t : State) : Prop :=
      step { s with script := .wr idx v :: rest } = .next { t with script := rest }
    leaves 0x01 s ∧
    leaves 0x02 s ∧
    leaves 0x04 { s with st := { s.st with power := BitVec.ofNat 1 (v.toNat % 2) } } ∧
    leaves 0x05 { s with st := { s.st with mode := BitVec.ofNat 3 (v.toNat % 8) } } ∧
    leaves 0x06 { s with st := { s.st with fan := BitVec.ofNat 3 (v.toNat % 8) } } ∧
    leaves 0x07 { s with st := { s.st with swing := BitVec.ofNat 1 (v.toNat % 2) } } ∧
    leaves 0x08 { s with st := { s.st with temp := BitVec.ofNat 6 (v.toNat % 64) } } ∧
    (∀ i : Fin 13,
      leaves (0x10 + i.val) { s with frame := s.frame.set i (BitVec.ofNat 8 (v.toNat % 256)) }) ∧
    step { s with script := .wr 0x00 v :: rest } = exec (selected v) { s with script := rest }

/-- R55 (a): a read after a write of a read-write register returns the truncated value written. -/
def Obligations.ReadAfterWriteReturnsTheTruncatedValue : Prop :=
  ∀ (s : State) (idx w : Nat) (v : BitVec 32) (rest : List Access), widthAt idx = some w →
    ∃ t u, step { s with script := .wr idx v :: .rd idx :: rest } = .next t ∧ step t = .next u ∧
      u.readLog = s.readLog ++ [(idx, BitVec.ofNat 32 (v.toNat % 2 ^ w))]

/-- R18, R80: CMD selects by bits 2:0 and ignores bits 31:3; its read returns 0 and has no effect. -/
def Obligations.CommandIsSelectedByItsLowThreeBits : Prop :=
  ∀ (s : State) (v : BitVec 32) (rest : List Access),
    step { s with script := .wr 0x00 v :: rest } = exec (selected v) { s with script := rest } ∧
    (∀ v' : BitVec 32, v'.toNat % 8 = v.toNat % 8 →
      step { s with script := .wr 0x00 v' :: rest } = step { s with script := .wr 0x00 v :: rest }) ∧
    step { s with script := .rd 0x00 :: rest } =
      .next { s with script := rest, readLog := s.readLog ++ [(0x00, 0#32)] }

/-- R16: a completed command overwrites RESULT and sets DONE, whatever they were before; nothing else
but a reset writes STATUS, and ERRPOS moves with it; the host's read of STATUS has no side effect. That a
reserved command code completes so is the model's choice, log 9. -/
def Obligations.OnlyCommandsWriteStatus : Prop :=
  (∀ (s : State) (v : BitVec 32) (rest : List Access), s.script = .wr 0x00 v :: rest →
    ∃ t, step s = .next t ∧ t.done = true ∧
      ∀ r d e, ∃ u, step { s with result := r, done := d, errpos := e } = .next u ∧
        u.result = t.result ∧ u.done = t.done ∧ u.errpos = t.errpos) ∧
  (∀ s t : State, step s = .next t → (∀ v rest, s.script ≠ .wr 0x00 v :: rest) →
    (∀ rest, s.script ≠ .reset :: rest) →
    t.result = s.result ∧ t.done = s.done ∧ t.errpos = s.errpos) ∧
  (∀ (s : State) (rest : List Access), ∃ log,
    step { s with script := .rd 0x01 :: rest } = .next { s with script := rest, readLog := log })

/-- R12, R20 to R25: the ST_* registers change only by the host's writes of them and by an FDEC or PDEC
that ends Ok; the FRAME registers only by the host's writes of them and by FENC, PDEC and XMIT; both also
by a reset. -/
def Obligations.RegistersChangeOnlyByTheirWriters : Prop :=
  ∀ s t : State, step s = .next t →
    (t.st ≠ s.st →
      (∃ idx v rest, s.script = .wr idx v :: rest ∧ 0x04 ≤ idx ∧ idx ≤ 0x08) ∨
      (∃ v rest, s.script = .wr 0x00 v :: rest ∧ (v.toNat % 8 = 2 ∨ v.toNat % 8 = 4) ∧
        t.result = .ok) ∨
      ∃ rest, s.script = .reset :: rest) ∧
    (t.frame ≠ s.frame →
      (∃ idx v rest, s.script = .wr idx v :: rest ∧ 0x10 ≤ idx ∧ idx ≤ 0x1C) ∨
      (∃ v rest, s.script = .wr 0x00 v :: rest ∧
        (v.toNat % 8 = 1 ∨ v.toNat % 8 = 4 ∨ v.toNat % 8 = 5)) ∨
      (∃ w rest, s.script = .ldframe w :: rest) ∨ (∃ p c rest, s.script = .wrfield p c :: rest) ∨
      (∃ c rest, s.script = .wrtemp c :: rest) ∨ (∃ c rest, s.script = .wrswing c :: rest) ∨
      ∃ rest, s.script = .reset :: rest)

/-- R30: PENC and XMIT append one event each to TXLOG, PDEC its queries (at least one) to RXLOG, a reset
empties both (R37), nothing else touches them, and what they hold changes no register. -/
def Obligations.PortHistoriesGrowOnlyByTheirOperations : Prop :=
  ∀ s t : State, step s = .next t →
    let writes (codes : List Nat) : Prop := ∃ v rest, s.script = .wr 0x00 v :: rest ∧ v.toNat % 8 ∈ codes
    let resets : Prop := ∃ rest, s.script = .reset :: rest
    (writes [3, 5] → ∃ e, t.txlog = s.txlog ++ [e]) ∧
    (writes [4] → ∃ q qs, t.rxlog = s.rxlog ++ q :: qs) ∧
    (resets → t.txlog = [] ∧ t.rxlog = []) ∧
    (¬ writes [3, 5] → ¬ resets → t.txlog = s.txlog) ∧
    (¬ writes [4] → ¬ resets → t.rxlog = s.rxlog) ∧
    ∀ tx rx, ∃ u, step { s with txlog := tx, rxlog := rx } = .next u ∧
      u.st = t.st ∧ u.frame = t.frame ∧ u.result = t.result ∧ u.done = t.done ∧
      u.errpos = t.errpos ∧ u.rx = t.rx ∧ u.script = t.script ∧ u.readLog = t.readLog

/-! ## The frame codec -/

/-- R100, R109: FENC writes the encoded frame of ST_*, which is well-formed whatever the snapshot is, ends
Ok, and changes nothing else. -/
def Obligations.FencWritesTheEncodedFrame : Prop :=
  ∀ (ign : BitVec 29) (s : State),
    exec (.fenc ign) s = .next (succeeded { s with frame := frameEncode s.st }) ∧
    IsWellFormed (frameEncode s.st)

/-- R102 to R108, R72: every byte of an encoded frame, for every snapshot. Outside the supported snapshots (a
temperature outside 16 to 30, mode 5 to 7 with power on, another mode than Off with power off, fan 4 to 7)
the bytes are those of log 10, after the spec's decisions D6, D7 and D9. -/
def Obligations.EncodedFrameHasTheBytesOfTheRules : Prop :=
  ∀ (ign : BitVec 29) (s : State), ∃ t, exec (.fenc ign) s = .next t ∧
    let f := t.frame
    let c := s.st
    f.b0 = 0xC3#8 ∧ f.b2 = 0x20#8 ∧ f.b3 = 0x12#8 ∧ f.b10 = 0x20#8 ∧ f.b11 = 0x05#8 ∧
    f.b1.toNat / 8 = (c.temp.toNat + 24) % 32 ∧
    f.b1.toNat % 8 = (if c.swing = 1#1 then 7 else 0) ∧
    f.b4 = (if c.fan = 0#3 then 0xA0#8 else if c.fan = 3#3 then 0x60#8
      else if c.fan = 2#3 then 0x40#8 else if c.fan = 1#3 then 0x20#8 else 0x00#8) ∧
    f.b6 = (if c.power = 1#1 then
        (if c.mode = 1#3 then 0x20#8 else if c.mode = 2#3 then 0x80#8
          else if c.mode = 3#3 then 0x40#8 else if c.mode = 4#3 then 0xC0#8 else 0x00#8)
      else 0x00#8) ∧
    f.b9 = (if c.power = 1#1 then 0x20#8 else 0x00#8) ∧
    f.b5 = 0x00#8 ∧ f.b7 = 0x00#8 ∧ f.b8 = 0x00#8 ∧
    f.b12.toNat = sum12 f % 256

/-- R104: the checksum is the sum of bytes 0 to 11 over Nat, modulo 256; byte 12 is not in it; a change of
one byte among 0 to 11 alters it; opposite changes of two bytes do not. -/
def Obligations.ChecksumIsTheUnmaskedSum : Prop :=
  ∀ f : Frame,
    (checksum f).toNat = sum12 f % 256 ∧
    (∀ v, checksum (f.set 12 v) = checksum f) ∧
    (∀ (i : Fin 13) (v : Byte), i ≠ 12 → v ≠ f.get i → checksum (f.set i v) ≠ checksum f) ∧
    (∀ (i j : Fin 13) (d : Byte), i ≠ j → i ≠ 12 → j ≠ 12 →
      checksum ((f.set i (f.get i + d)).set j (f.get j - d)) = checksum f)

/-- R112, R164: an FDEC of a frame with any identifier byte wrong ends StaticMismatch, whatever its
checksum, and writes STATUS and ERRPOS alone. -/
def Obligations.FdecReportsStaticMismatch : Prop :=
  ∀ (ign : BitVec 29) (s : State), ¬ Identified s.frame →
    exec (.fdec ign) s = .next (failed s .staticMismatch 0#7)

/-- R113: step 2 is reached only when step 1 passed: an FDEC of a frame with the identifier bytes right and
byte 12 wrong ends ChecksumMismatch, and a frame that fails both checks reports StaticMismatch. So changing
any one of bytes 0, 2, 3, 10 of a well-formed frame gives StaticMismatch, and changing byte 12 alone gives
ChecksumMismatch. Each writes STATUS and ERRPOS alone. -/
def Obligations.FdecChecksTheSumSecond : Prop :=
  (∀ (ign : BitVec 29) (s : State), s.frame.b12.toNat ≠ sum12 s.frame % 256 →
    (Identified s.frame → exec (.fdec ign) s = .next (failed s .checksumMismatch 0#7)) ∧
    (¬ Identified s.frame → exec (.fdec ign) s = .next (failed s .staticMismatch 0#7))) ∧
  (∀ (ign : BitVec 29) (s : State) (f : Frame) (v : Byte), IsWellFormed f →
    (∀ i : Fin 13, i = 0 ∨ i = 2 ∨ i = 3 ∨ i = 10 → v ≠ f.get i →
      exec (.fdec ign) { s with frame := f.set i v } =
        .next (failed { s with frame := f.set i v } .staticMismatch 0#7)) ∧
    (v ≠ f.get 12 → exec (.fdec ign) { s with frame := f.set 12 v } =
      .next (failed { s with frame := f.set 12 v } .checksumMismatch 0#7)))

/-- R114: a well-formed frame whose byte 9 is not 0x20 sets power off and mode Off and keeps the fan,
swing and temperature of before, whatever bytes 1, 4 and 6 hold. -/
def Obligations.FdecOfAPowerOffFrame : Prop :=
  ∀ (ign : BitVec 29) (s : State), IsWellFormed s.frame → s.frame.b9 ≠ 0x20#8 →
    exec (.fdec ign) s =
      .next (succeeded { s with st := { s.st with power := 0#1, mode := 5#3 } })

/-- R115, R116, R117: a well-formed frame with byte 9 = 0x20 sets power on and the temperature from byte 1
bits 7:3 plus 8; swing, fan and mode (R118) from their codes, and from the previous snapshot where a code
is unmapped. -/
def Obligations.FdecOfAPowerOnFrame : Prop :=
  ∀ (ign : BitVec 29) (s : State), IsWellFormed s.frame → s.frame.b9 = 0x20#8 →
    ∃ c : Snapshot, exec (.fdec ign) s = .next (succeeded { s with st := c }) ∧
      c.power = 1#1 ∧
      c.temp.toNat = s.frame.b1.toNat / 8 + 8 ∧
      c.swing = (if s.frame.b1.toNat % 8 = 0 then 0#1 else if s.frame.b1.toNat % 8 = 7 then 1#1
        else s.st.swing) ∧
      c.fan = (if s.frame.b4 = 0xA0#8 then 0#3 else if s.frame.b4 = 0x60#8 then 3#3
        else if s.frame.b4 = 0x40#8 then 2#3 else if s.frame.b4 = 0x20#8 then 1#3 else s.st.fan) ∧
      c.mode = (if s.frame.b6 = 0x00#8 then 0#3 else if s.frame.b6 = 0x20#8 then 1#3
        else if s.frame.b6 = 0x80#8 then 2#3 else if s.frame.b6 = 0x40#8 then 3#3
        else if s.frame.b6 = 0xC0#8 then 4#3 else s.st.mode)

/-- R120 (derived by the spec): two well-formed frames that differ only in bytes 5, 7, 8, 11 and 12 decode
to the same snapshot. -/
def Obligations.FdecIgnoresBytesItDoesNotInterpret : Prop :=
  ∀ (ign : BitVec 29) (s : State) (f g : Frame), IsWellFormed f → IsWellFormed g →
    f.b1 = g.b1 → f.b4 = g.b4 → f.b6 = g.b6 → f.b9 = g.b9 →
    ∃ c : Snapshot, exec (.fdec ign) { s with frame := f } = .next (succeeded { s with frame := f, st := c }) ∧
      exec (.fdec ign) { s with frame := g } = .next (succeeded { s with frame := g, st := c })

/-- R73: FDEC succeeds exactly on the well-formed frames and interprets no field of another, and the
identifier part of that predicate is the mask and match over the word W. -/
def Obligations.FdecSucceedsExactlyOnWellFormedFrames : Prop :=
  (∀ (ign : BitVec 29) (s : State), ∃ t, exec (.fdec ign) s = .next t ∧
    (t.result = .ok ↔ IsWellFormed s.frame) ∧ (¬ IsWellFormed s.frame → t.st = s.st)) ∧
  (∀ w : BitVec 104,
    w &&& 0x0000FF000000000000FFFF00FF#104 = 0x000020000000000000122000C3#104 ↔
      Identified (Frame.ofWord w))

/-- R121 (a): FENC of a power-on snapshot in the source's ranges, then FDEC over any previous snapshot,
gives the snapshot back. -/
def Obligations.FrameRoundTrip : Prop :=
  ∀ (ign ign' : BitVec 29) (s : State) (prev : Snapshot), RoundTrips s.st →
    ∃ t u, exec (.fenc ign) s = .next t ∧ exec (.fdec ign') { t with st := prev } = .next u ∧
      u.result = .ok ∧ u.st = s.st

/-- R121 (b): FENC of a power-off snapshot, then FDEC, gives power off and mode Off with the previous fan,
swing and temperature, not the encoded ones. -/
def Obligations.PowerOffRoundTrip : Prop :=
  ∀ (ign ign' : BitVec 29) (s : State) (prev : Snapshot), s.st.power = 0#1 → s.st.mode = 5#3 →
    ∃ t u, exec (.fenc ign) s = .next t ∧ exec (.fdec ign') { t with st := prev } = .next u ∧
      u.result = .ok ∧ u.st = { prev with power := 0#1, mode := 5#3 }

/-! ## The pulse codec -/

/-- R130, R136, R137: PENC sends the train of whatever FRAME holds, in one event at 38000 Hz, ends Ok, and
changes nothing else. -/
def Obligations.PencTransmitsTheTrainOfFrame : Prop :=
  ∀ (ign : BitVec 29) (s : State),
    exec (.penc ign) s =
      .next (succeeded { s with txlog := s.txlog ++ [⟨38000, pulseEncode s.frame⟩] })

/-- R132, R133, R134, R52: a train is the header, then for byte i and bit j, least significant first, one
symbol with mark 625 and space 1935 or 685, then the footer; 106 symbols. -/
def Obligations.TrainHasTheSymbolsOfTheRules : Prop :=
  ∀ f : Frame,
    (pulseEncode f).length = 106 ∧
    (pulseEncode f)[0]? = some ⟨8960, 4485⟩ ∧
    (∀ (i : Fin 13) (j : Nat), j < 8 → (pulseEncode f)[1 + 8 * i.val + j]? =
      some ⟨625, if (f.get i).getLsbD j then 1935 else 685⟩) ∧
    (pulseEncode f)[105]? = some ⟨625, 0⟩

/-- R135 (derived by the spec): the durations of a train sum to
8960 + 4485 + 104 * 625 + 685 z + 1935 (104 - z) + 625, with z the number of 0 bits of the frame. -/
def Obligations.TrainDurationCountsTheZeroBits : Prop :=
  ∀ f : Frame,
    let z := ((List.range 104).filter fun k => !dataBit f k).length
    ((pulseEncode f).map fun y => y.mark + y.space).sum =
      8960 + 4485 + 104 * 625 + 685 * z + 1935 * (104 - z) + 625

/-- R131: PulseEncode is injective. -/
def Obligations.PulseEncodeIsInjective : Prop :=
  ∀ f g : Frame, pulseEncode f = pulseEncode g → f = g

/-- R138: XMIT is FENC then PENC, and the frame it sends is well-formed. -/
def Obligations.XmitIsFencThenPenc : Prop :=
  ∀ (ign ign' ign'' : BitVec 29) (s : State),
    exec (.xmit ign) s = .next (succeeded
      { s with frame := frameEncode s.st,
               txlog := s.txlog ++ [⟨38000, pulseEncode (frameEncode s.st)⟩] }) ∧
    (∃ t, exec (.fenc ign') s = .next t ∧ exec (.penc ign'') t = exec (.xmit ign) s) ∧
    IsWellFormed (frameEncode s.st)

/-- R49, R50, R51, R59: whatever the receiver, present moves its cursor by one, absent leaves it, and the
capture stays; the reference receiver compares the symbol at its cursor, and with none left answers absent;
an oracle answers what its list says, each answer once, and with none left answers absent (log 4). -/
def Obligations.ReceiverAnswersAndConsumes : Prop :=
  (∀ (r : Receiver) (q : RxQuery),
    (r.after q).capture = r.capture ∧
    (r.present q = true → (r.after q).cursor = r.cursor + 1) ∧
    (r.present q = false → (r.after q).cursor = r.cursor)) ∧
  (∀ (cap : List Symbol) (n : Nat) (m : MatchRule) (a b : Nat),
    let r : Receiver := ⟨cap, n, .reference m⟩
    (r.present (.item a b) = true ↔
      ∃ y, (cap)[n]? = some y ∧ m.holds a y.mark = true ∧ m.holds b y.space = true) ∧
    (r.present (.mark a) = true ↔ ∃ y, (cap)[n]? = some y ∧ m.holds a y.mark = true) ∧
    (∀ q, r.present q = true → r.after q = ⟨cap, n + 1, .reference m⟩) ∧
    (∀ q, r.present q = false → r.after q = r)) ∧
  (∀ (cap : List Symbol) (n : Nat) (a : Bool) (rest : List Bool) (q : RxQuery),
    let r : Receiver := ⟨cap, n, .oracle (a :: rest)⟩
    let spent : Receiver := ⟨cap, n, .oracle []⟩
    r.present q = a ∧ r.after q = ⟨cap, if a then n + 1 else n, .oracle rest⟩ ∧
    spent.present q = false ∧ spent.after q = spent)

/-- R141, R161: a PDEC whose header query is answered absent ends HeaderMismatch after that one query; no
ST_* register changes and FRAME is left unspecified (a free value, R145). -/
def Obligations.PdecReportsHeaderMismatch : Prop :=
  ∀ (ign : BitVec 29) (s : State), s.rx.present (.item 8960 4485) = false →
    ∃ f, exec (.pdec ign) s = .next (failed
      { s with frame := f, draws := s.draws + 1, rx := s.rx.after (.item 8960 4485),
               rxlog := s.rxlog ++ [⟨.item 8960 4485, false⟩] } .headerMismatch 0#7)

/-- R142, R149, R162: the first data symbol that matches neither pair ends the PDEC with BitMismatch, and
ERRPOS is its index. Stated for the oracle, whose answers nothing constrains. -/
def Obligations.PdecReportsBitMismatch : Prop :=
  ∀ (ign : BitVec 29) (s : State) (cap : List Symbol) (n : Nat) (bs rest : List Bool),
    bs.length < 104 →
    s.rx = ⟨cap, n, .oracle (true :: answersFor bs ++ false :: false :: rest)⟩ →
    ∃ f, exec (.pdec ign) s = .next (failed
      { s with frame := f, draws := s.draws + 1,
               rx := ⟨cap, n + 1 + bs.length, .oracle rest⟩,
               rxlog := s.rxlog ++ ⟨.item 8960 4485, true⟩ :: queriesFor bs ++
                 [⟨.item 625 1935, false⟩, ⟨.item 625 685, false⟩] }
      .bitMismatch (BitVec.ofNat 7 bs.length))

/-- R143, R163: after 104 data bits, a footer mark answered absent ends the PDEC with FooterMismatch. -/
def Obligations.PdecReportsFooterMismatch : Prop :=
  ∀ (ign : BitVec 29) (s : State) (cap : List Symbol) (n : Nat) (bs rest : List Bool),
    bs.length = 104 →
    s.rx = ⟨cap, n, .oracle (true :: answersFor bs ++ false :: rest)⟩ →
    ∃ f, exec (.pdec ign) s = .next (failed
      { s with frame := f, draws := s.draws + 1,
               rx := ⟨cap, n + 1 + 104, .oracle rest⟩,
               rxlog := s.rxlog ++ ⟨.item 8960 4485, true⟩ :: queriesFor bs ++ [⟨.mark 625, false⟩] }
      .footerMismatch 0#7)

/-- R140, R144, R145: a PDEC that reads a whole frame puts the assembled bytes in FRAME and ends as the
FDEC of them over the ST_* it found; nothing after the footer mark is asked. -/
def Obligations.PdecOfAWholeFrame : Prop :=
  ∀ (ign ign' : BitVec 29) (s : State) (cap : List Symbol) (n : Nat) (f : Frame) (rest : List Bool),
    let bs := (List.range 104).map (dataBit f)
    s.rx = ⟨cap, n, .oracle (true :: answersFor bs ++ true :: rest)⟩ →
    let heard : State :=
      { s with rx := ⟨cap, n + 106, .oracle rest⟩, frame := f,
               rxlog := s.rxlog ++ ⟨.item 8960 4485, true⟩ :: queriesFor bs ++ [⟨.mark 625, true⟩] }
    exec (.pdec ign) s = exec (.fdec ign') heard ∧
    (¬ Identified f → exec (.pdec ign) s = .next (failed heard .staticMismatch 0#7)) ∧
    (Identified f → f.b12.toNat ≠ sum12 f % 256 →
      exec (.pdec ign) s = .next (failed heard .checksumMismatch 0#7)) ∧
    (IsWellFormed f → ∃ c, exec (.pdec ign) s = .next (succeeded { heard with st := c }))

/-- R51, R140: what a PDEC does depends on the receiver through its answers alone: an oracle that gives the
answers a receiver gave leads to the same registers and the same queries. -/
def Obligations.PdecFollowsTheAnswersAlone : Prop :=
  ∀ (ign : BitVec 29) (s t : State), exec (.pdec ign) s = .next t →
    ∃ u, exec (.pdec ign)
        { s with rx := ⟨[], 0, .oracle ((t.rxlog.drop s.rxlog.length).map RxEvent.answer)⟩ } = .next u ∧
      u.st = t.st ∧ u.frame = t.frame ∧ u.result = t.result ∧ u.errpos = t.errpos ∧
      u.rxlog = t.rxlog

/-- R147 (derived by the spec): the shape of the query sequence, at least 1 and at most 210 queries, none
of them depending on FRAME or ST_*. -/
def Obligations.PdecQueriesHaveTheirShape : Prop :=
  ∀ (ign : BitVec 29) (s t : State), exec (.pdec ign) s = .next t →
    (∃ es, t.rxlog = s.rxlog ++ es ∧ 1 ≤ es.length ∧ es.length ≤ 210 ∧
      (es = [⟨.item 8960 4485, false⟩] ∨
        (∃ bs, bs.length < 104 ∧ es = ⟨.item 8960 4485, true⟩ :: queriesFor bs ++
          [⟨.item 625 1935, false⟩, ⟨.item 625 685, false⟩]) ∨
        (∃ bs a, bs.length = 104 ∧
          es = ⟨.item 8960 4485, true⟩ :: queriesFor bs ++ [⟨.mark 625, a⟩]))) ∧
    ∀ c f, ∃ u, exec (.pdec ign) { s with st := c, frame := f } = .next u ∧ u.rxlog = t.rxlog

/-- R148 (derived by the spec): with a receiver that holds the train of `f`, MatchRefl and MatchDisjoint,
a PDEC assembles exactly `f`; XMIT of a round-trip snapshot, then a PDEC on the transmitted train, yields
the snapshot over any previous one; exact equality meets both hypotheses. -/
def Obligations.PulseRoundTrip : Prop :=
  (∀ (ign : BitVec 29) (s : State) (m : MatchRule) (f : Frame) (extra : List Symbol),
    m.Refl → m.Disjoint → s.rx.Holds (pulseEncode f ++ extra) m →
    ∃ t, exec (.pdec ign) s = .next t ∧ t.frame = f ∧ t.rx.cursor = s.rx.cursor + 106 ∧
      (t.result = .ok ↔ IsWellFormed f)) ∧
  (∀ (ign ign' : BitVec 29) (s : State) (m : MatchRule) (prev : Snapshot),
    m.Refl → m.Disjoint → RoundTrips s.st →
    ∃ t e u, exec (.xmit ign) s = .next t ∧ t.txlog = s.txlog ++ [e] ∧
      exec (.pdec ign') { t with st := prev, rx := ⟨e.train, 0, .reference m⟩ } = .next u ∧
      u.result = .ok ∧ u.st = s.st ∧ u.frame = t.frame) ∧
  MatchRule.exact.Refl ∧ MatchRule.exact.Disjoint

/-- R146: symbols after the footer mark stay unexamined, and a capture that ends early fails at its first
missing symbol: none at all HeaderMismatch, header and n data symbols BitMismatch(n), no footer
FooterMismatch. Over the reference receiver with exact equality. -/
def Obligations.ShortAndLongCaptures : Prop :=
  ∀ (ign : BitVec 29) (s : State) (f : Frame),
    let on (cap : List Symbol) : State := { s with rx := ⟨cap, 0, .reference .exact⟩ }
    (∃ t, exec (.pdec ign) (on []) = .next t ∧ t.result = .headerMismatch ∧ t.errpos = 0#7) ∧
    (∀ n, n < 104 → ∃ t, exec (.pdec ign) (on ((pulseEncode f).take (1 + n))) = .next t ∧
      t.result = .bitMismatch ∧ t.errpos.toNat = n) ∧
    (∃ t, exec (.pdec ign) (on ((pulseEncode f).take 105)) = .next t ∧
      t.result = .footerMismatch ∧ t.errpos = 0#7) ∧
    (∀ extra, ∃ t u, exec (.pdec ign) (on (pulseEncode f)) = .next t ∧
      exec (.pdec ign) (on (pulseEncode f ++ extra)) = .next u ∧
      u.st = t.st ∧ u.frame = t.frame ∧ u.frame = f ∧ u.result = t.result ∧ u.errpos = t.errpos ∧
      u.rxlog = t.rxlog ∧ u.rx.cursor = 106)

/-! ## Failures -/

/-- R81, R166: a write to CMD with code 0, 6 or 7 gives IllegalCommand: RESULT 7, DONE 1, ERRPOS 0, no other
register changed and no port event; so do the two reserved rows. R166 also lets a model refuse these codes;
taking the effect is the model's choice, log 9. -/
def Obligations.ReservedCommandIsIllegal : Prop :=
  ∀ (ign : BitVec 29) (low : BitVec 1) (s : State),
    exec (.reserved0 ign) s = .next (failed s .illegalCommand 0#7) ∧
    exec (.reserved67 ign low) s = .next (failed s .illegalCommand 0#7) ∧
    ∀ (v : BitVec 32) (rest : List Access), v.toNat % 8 = 0 ∨ v.toNat % 8 = 6 ∨ v.toNat % 8 = 7 →
      step { s with script := .wr 0x00 v :: rest } =
        .next (failed { s with script := rest } .illegalCommand 0#7)

/-- R170, R171: an operation that ends in a failure leaves the five ST_* registers as they were, sends no
train, and ERRPOS is 0 unless the failure is BitMismatch. Its part about the reserved codes rests on the
model's choice, log 9. -/
def Obligations.FailedOperationKeepsTheSnapshot : Prop :=
  ∀ (i : Instr) (s t : State), isCommand i = true → exec i s = .next t → t.result ≠ .ok →
    t.st = s.st ∧ t.txlog = s.txlog ∧ t.done = true ∧ (t.result ≠ .bitMismatch → t.errpos = 0#7)

/-- R160, table T10, R176: which failures an operation can end in: FENC, PENC and XMIT in none, FDEC in the
two structural ones, PDEC in the five of the source, a reserved code in IllegalCommand (the model's choice,
log 9). -/
def Obligations.EachOperationReportsOnlyItsFailures : Prop :=
  ∀ (ign : BitVec 29) (low : BitVec 1) (s t : State),
    (exec (.fenc ign) s = .next t ∨ exec (.penc ign) s = .next t ∨ exec (.xmit ign) s = .next t →
      t.result = .ok) ∧
    (exec (.fdec ign) s = .next t → t.result ∈ [.ok, .staticMismatch, .checksumMismatch]) ∧
    (exec (.pdec ign) s = .next t → t.result ≠ .illegalCommand) ∧
    (exec (.reserved0 ign) s = .next t ∨ exec (.reserved67 ign low) s = .next t →
      t.result = .illegalCommand)

/-! ## The data rows of the table, and the encodings -/

/-- The two frame rows (R85 LDFRAME; that the row runs as this load is the model's choice, log 7): FRAME gets
the thirteen bytes of the row's word and nothing else changes. -/
def Obligations.FrameRowLoadsItsWord : Prop :=
  ∀ (i : Instr) (w : BitVec 104) (s : State), encode i = .frame w →
    exec i s = .next { s with frame := Frame.ofWord w }

/-- The twenty field rows (tables T5 to T7; that the row runs as a write of its field is the model's choice,
log 7): the row's bits of its byte get the row's code, and every other bit of FRAME, and every other part
of the state, is unchanged. -/
def Obligations.FieldRowWritesItsBits : Prop :=
  ∀ (i : Instr) (s : State) (b : Fin 13) (lo width code : Nat), fieldRow i = some (b, lo, width, code) →
    ∃ f, exec i s = .next { s with frame := f } ∧
      (f.get b).toNat / 2 ^ lo % 2 ^ width = code ∧
      (∀ j, j < lo ∨ lo + width ≤ j → (f.get b).getLsbD j = (s.frame.get b).getLsbD j) ∧
      ∀ j, j ≠ b → f.get j = s.frame.get j

/-- The four symbol rows (table T8; that the row runs as a symbol reaching the receiver is the model's
choice, log 7): the capture gets the symbol at its end, and nothing else changes. -/
def Obligations.SymbolRowReachesTheReceiver : Prop :=
  ∀ (i : Instr) (s : State) (mark space : Nat), symbolRow i = some (mark, space) →
    exec i s = .next { s with rx := { s.rx with capture := s.rx.capture ++ [⟨mark, space⟩] } }

/-- The field rows of a round-trip snapshot, run in turn on any state, write the bytes FrameEncode names
and leave bytes 5, 7, 8 and 12 (R101; the rows' running is the model's choice, log 7). -/
def Obligations.FieldRowsSpellTheEncodedFrame : Prop :=
  ∀ (s : State) (c : Snapshot), RoundTrips c →
    ∃ f, runRows (rowsOf c) s = some { s with frame := f } ∧
      (∀ i : Fin 13, i ∈ [0, 1, 2, 3, 4, 6, 9, 10, 11] → f.get i = (frameEncode c).get i) ∧
      (∀ i : Fin 13, i ∈ [5, 7, 8, 12] → f.get i = s.frame.get i)

/-- Decoding an encoded well-formed row gives the row back, for every row and every operand. -/
def Obligations.DecodeOfEncode : Prop :=
  ∀ i : Instr, i.wellFormed = true → decode (encode i) = .ok i

/-- What the decoder reads is well-formed and encodes to the word it was read from: no word has two
readings and no bit of a word is dropped. -/
def Obligations.EncodeOfDecode : Prop :=
  ∀ (w : TableWord) (i : Instr), decode w = .ok i → i.wellFormed = true ∧ encode i = w

/-- R86, row FRAME.ENCODED: the word of every frame FrameEncode produces is a word of that row. For
unsupported snapshots the frame is that of log 10. -/
def Obligations.EncodedFrameIsAWordOfItsRow : Prop :=
  ∀ c : Snapshot, ∃ swing temp fan mode power sum,
    decode (.frame (frameEncode c).toWord) = .ok (.frameEncoded swing temp fan mode power sum)

/-- Some words written out from the encodings decode to their rows: a CMD value with bits above the code
(V52), the frame of V1 as a word, a frame that is not the encoder's, a swing field, the header. -/
def Obligations.SampleWordsDecode : Prop :=
  decode (.cmd 0x00000009#32) = .ok (.fenc 1#29) ∧
  decode (.cmd 0xFFFFFFFE#32) = .ok (.reserved67 0x1FFFFFFF#29 0#1) ∧
  decode (.frame 0x7A05202000002000A0122080C3#104)
    = .ok (.frameEncoded 0#3 16#5 0xA0#8 0x20#8 0x20#8 0x7A#8) ∧
  decode (.frame 0xE005202033222011A0122080C3#104)
    = .ok (.frame 0#3 16#5 0xA0#8 0x11#8 0x20#8 0x22#8 0x33#8 0x20#8 0x05#8 0xE0#8) ∧
  decode (.field3 0x7#3) = .ok .swingVertical ∧
  decode (.symbol 0x23001185#32) = .ok .hdr
end

