-- ==== Sys2Proof/Laws/Frame.lean ====
section
/-! SUPPORT. The laws of byte, bit and word access to a frame, and of byte 1 and its two parts. -/

namespace Sys2Proof

/-- A read after a write: the byte written, every other byte as before. -/
@[simp] theorem Frame.get_set (f : Frame) (i j : Fin 13) (v : Byte) :
    (f.set i v).get j = if j = i then v else f.get j := by
  fin_cases i <;> fin_cases j <;> rfl

/-- Writing back what a byte holds changes nothing. -/
@[simp] theorem Frame.set_get (f : Frame) (i : Fin 13) : f.set i (f.get i) = f := by
  fin_cases i <;> rfl

/-- A frame is its thirteen bytes. -/
theorem Frame.ext_get {f g : Frame} (h : ∀ i, f.get i = g.get i) : f = g := by
  ext1
  exacts [h 0, h 1, h 2, h 3, h 4, h 5, h 6, h 7, h 8, h 9, h 10, h 11, h 12]

/-- Data bit 8i + j is bit j of byte i (R52). -/
theorem Frame.bit_byte (f : Frame) (i : Fin 13) {j : Nat} (hj : j < 8) :
    f.bit (8 * i.val + j) = (f.get i).getLsbD j := by
  have h1 : (8 * i.val + j) / 8 = i.val := by omega
  have h2 : (8 * i.val + j) % 8 = j := by omega
  have h3 : Fin.ofNat 13 i.val = i := by ext; simp [Fin.ofNat, Nat.mod_eq_of_lt i.isLt]
  simp only [Frame.bit, CFG, h1, h2, h3]

/-- A frame is its 104 data bits. -/
theorem Frame.ext_bit {f g : Frame} (h : ∀ k < 104, f.bit k = g.bit k) : f = g := by
  refine Frame.ext_get fun i => BitVec.eq_of_getLsbD_eq fun j hj => ?_
  rw [← f.bit_byte i hj, ← g.bit_byte i hj]
  exact h _ (by have := i.isLt; omega)

/-- Setting data bit k sets it and no other (R140). -/
theorem Frame.bit_setBit (f : Frame) {k j : Nat} (hk : k < 104) (hj : j < 104) :
    (f.setBit k).bit j = (f.bit j || decide (j = k)) := by
  simp only [Frame.setBit, Frame.bit, CFG, Frame.get_set]
  have hk13 : k / 8 < 13 := by omega
  have hj13 : j / 8 < 13 := by omega
  have hkm : k % 8 < 8 := Nat.mod_lt _ (by decide)
  have hjm : j % 8 < 8 := Nat.mod_lt _ (by decide)
  by_cases h : j / 8 = k / 8
  · have : Fin.ofNat 13 (j / 8) = Fin.ofNat 13 (k / 8) := by rw [h]
    simp only [this, if_true, BitVec.getLsbD_or]
    congr 1
    by_cases e : j = k
    · subst e; simp [hjm]
    · have : j % 8 ≠ k % 8 := by omega
      have h2 : ¬ (j % 8 < k % 8) → j % 8 - k % 8 ≠ 0 := by omega
      simp only [BitVec.getLsbD_shiftLeft, BitVec.getLsbD_one, e, decide_false]
      by_cases h3 : j % 8 < k % 8
      · simp [h3]
      · simp [h2 h3]
  · have : Fin.ofNat 13 (j / 8) ≠ Fin.ofNat 13 (k / 8) := by
      intro e; apply h; have := congrArg Fin.val e
      simpa [Fin.ofNat, Nat.mod_eq_of_lt hk13, Nat.mod_eq_of_lt hj13] using this
    have e : j ≠ k := fun e => h (by rw [e])
    rw [if_neg this]; simp [e]

/-- The data bits in sending order are bits 0 to 103 (R52). -/
theorem Frame.bits_eq (f : Frame) : f.bits = (List.range 104).map f.bit := by
  simp [Frame.bits, Frame.bytes, byteBits, CFG, Frame.bit, List.range_succ, Frame.get, Fin.ofNat]

@[simp] theorem Frame.length_bits (f : Frame) : f.bits.length = 104 := by simp [Frame.bits_eq]

@[simp] theorem Frame.bit_zero (k : Nat) : Frame.zero.bit k = false := by
  have : ∀ i, Frame.zero.get i = 0#8 := by decide
  simp [Frame.bit, this]

/-- Bit k of the frame word `W` is the k-th data bit sent (R52). -/
theorem Frame.getLsbD_toWord (f : Frame) {k : Nat} (hk : k < 104) : f.toWord.getLsbD k = f.bit k := by
  simp [Frame.toWord, hk]

/-- Data bit k of the frame of a word is bit k of the word (R52). -/
theorem Frame.bit_ofWord (w : BitVec 104) {k : Nat} (hk : k < 104) :
    (Frame.ofWord w).bit k = w.getLsbD k := by
  interval_cases k <;> simp [Frame.ofWord, Frame.bit, CFG, Frame.get, Fin.ofNat]

@[simp] theorem Frame.ofWord_toWord (f : Frame) : Frame.ofWord f.toWord = f :=
  Frame.ext_bit fun _ hk => by rw [Frame.bit_ofWord _ hk, Frame.getLsbD_toWord _ hk]

@[simp] theorem Frame.toWord_ofWord (w : BitVec 104) : (Frame.ofWord w).toWord = w :=
  BitVec.eq_of_getLsbD_eq fun _ hk => by rw [Frame.getLsbD_toWord _ hk, Frame.bit_ofWord _ hk]

/-- The bytewise AND of two frames. -/
def Frame.and (f g : Frame) : Frame :=
  ⟨f.b0 &&& g.b0, f.b1 &&& g.b1, f.b2 &&& g.b2, f.b3 &&& g.b3, f.b4 &&& g.b4, f.b5 &&& g.b5,
    f.b6 &&& g.b6, f.b7 &&& g.b7, f.b8 &&& g.b8, f.b9 &&& g.b9, f.b10 &&& g.b10, f.b11 &&& g.b11,
    f.b12 &&& g.b12⟩

@[simp] theorem Frame.get_and (f g : Frame) (i : Fin 13) : (f.and g).get i = f.get i &&& g.get i := by
  fin_cases i <;> rfl

/-- Masking the word of a frame masks its bytes (R52). -/
theorem Frame.toWord_and (f g : Frame) : f.toWord &&& g.toWord = (f.and g).toWord := by
  refine BitVec.eq_of_getLsbD_eq fun k hk => ?_
  rw [BitVec.getLsbD_and, Frame.getLsbD_toWord _ hk, Frame.getLsbD_toWord _ hk,
    Frame.getLsbD_toWord _ hk]
  simp [Frame.bit]

/-- The temperature field comes back out of byte 1 (R78). -/
@[simp] theorem tempBits_byte1 (t : BitVec 5) (c : BitVec 3) : tempBits (byte1 t c) = t := by
  revert t c; decide

/-- The swing code comes back out of byte 1 (R78). -/
@[simp] theorem swingBits_byte1 (t : BitVec 5) (c : BitVec 3) : swingBits (byte1 t c) = c := by
  revert t c; decide

/-- Byte 1 is its two parts (R78). -/
@[simp] theorem byte1_bits (b : Byte) : byte1 (tempBits b) (swingBits b) = b := by
  revert b; decide

/-- TempField and the decoder's `+ 8` undo each other on 8 to 39 (R103). -/
theorem tempOf_tempField {t : BitVec 6} (h : 8 ≤ t.toNat) (h' : t.toNat ≤ 39) :
    tempOf (tempField t) = t := by
  revert t; decide

/-- SwingOf undoes SwingCode (R76). -/
@[simp] theorem swingOf_swingCode (v : BitVec 1) : swingOf (swingCode v) = some v := by
  revert v; decide

/-- FanOf undoes FanCode on the supported values (R74). -/
theorem fanOf_fanCode {v : BitVec 3} (h : v.toNat ≤ 3) : fanOf (fanCode v) = some v := by
  revert v; decide

/-- ModeOf undoes ModeCode on the five modes of table T7 (R75). -/
theorem modeOf_modeCode {v : BitVec 3} (h : v.toNat ≤ 4) : modeOf (modeCode v) = some v := by
  revert v; decide

/-- PowerOf undoes PowerCode (R77). -/
@[simp] theorem powerOf_powerCode (v : BitVec 1) : powerOf (powerCode v) = v := by
  revert v; decide

/-- Well-formedness as its two checks (R73). -/
theorem Frame.wellFormed_iff (f : Frame) :
    f.wellFormed = true ↔ f.idsMatch = true ∧ checksum f = f.b12 := by
  simp only [Frame.wellFormed, Bool.and_eq_true, beq_iff_eq]
  exact and_congr_right fun _ => eq_comm

/-- FrameDecode of a well-formed frame (R111). -/
theorem frameDecode_wellFormed {f : Frame} (h : f.wellFormed = true) (prev : Snapshot) :
    frameDecode f prev = .ok (interpret f prev) := by
  obtain ⟨h1, h2⟩ := f.wellFormed_iff.mp h
  simp [frameDecode, h1, h2]

end Sys2Proof
end

