-- ==== Sys2Proof/Laws/State.lean ====
section
/-! SUPPORT. One lemma per field per update of State, each true by rfl. -/

namespace Sys2Proof.Machine

@[simp] theorem State.setSt_st (s : State) (c : Snapshot) :
    (s.setSt c).st = c := rfl
@[simp] theorem State.setSt_frame (s : State) (c : Snapshot) :
    (s.setSt c).frame = s.frame := rfl
@[simp] theorem State.setSt_result (s : State) (c : Snapshot) :
    (s.setSt c).result = s.result := rfl
@[simp] theorem State.setSt_done (s : State) (c : Snapshot) :
    (s.setSt c).done = s.done := rfl
@[simp] theorem State.setSt_errpos (s : State) (c : Snapshot) :
    (s.setSt c).errpos = s.errpos := rfl
@[simp] theorem State.setSt_txlog (s : State) (c : Snapshot) :
    (s.setSt c).txlog = s.txlog := rfl
@[simp] theorem State.setSt_rxlog (s : State) (c : Snapshot) :
    (s.setSt c).rxlog = s.rxlog := rfl
@[simp] theorem State.setSt_rx (s : State) (c : Snapshot) :
    (s.setSt c).rx = s.rx := rfl
@[simp] theorem State.setSt_script (s : State) (c : Snapshot) :
    (s.setSt c).script = s.script := rfl
@[simp] theorem State.setSt_readLog (s : State) (c : Snapshot) :
    (s.setSt c).readLog = s.readLog := rfl
@[simp] theorem State.setSt_draws (s : State) (c : Snapshot) :
    (s.setSt c).draws = s.draws := rfl

@[simp] theorem State.setFrame_st (s : State) (f : Frame) :
    (s.setFrame f).st = s.st := rfl
@[simp] theorem State.setFrame_frame (s : State) (f : Frame) :
    (s.setFrame f).frame = f := rfl
@[simp] theorem State.setFrame_result (s : State) (f : Frame) :
    (s.setFrame f).result = s.result := rfl
@[simp] theorem State.setFrame_done (s : State) (f : Frame) :
    (s.setFrame f).done = s.done := rfl
@[simp] theorem State.setFrame_errpos (s : State) (f : Frame) :
    (s.setFrame f).errpos = s.errpos := rfl
@[simp] theorem State.setFrame_txlog (s : State) (f : Frame) :
    (s.setFrame f).txlog = s.txlog := rfl
@[simp] theorem State.setFrame_rxlog (s : State) (f : Frame) :
    (s.setFrame f).rxlog = s.rxlog := rfl
@[simp] theorem State.setFrame_rx (s : State) (f : Frame) :
    (s.setFrame f).rx = s.rx := rfl
@[simp] theorem State.setFrame_script (s : State) (f : Frame) :
    (s.setFrame f).script = s.script := rfl
@[simp] theorem State.setFrame_readLog (s : State) (f : Frame) :
    (s.setFrame f).readLog = s.readLog := rfl
@[simp] theorem State.setFrame_draws (s : State) (f : Frame) :
    (s.setFrame f).draws = s.draws := rfl

@[simp] theorem State.finish_st (s : State) (r : Result) (p : BitVec 7) :
    (s.finish r p).st = s.st := rfl
@[simp] theorem State.finish_frame (s : State) (r : Result) (p : BitVec 7) :
    (s.finish r p).frame = s.frame := rfl
@[simp] theorem State.finish_result (s : State) (r : Result) (p : BitVec 7) :
    (s.finish r p).result = r := rfl
@[simp] theorem State.finish_done (s : State) (r : Result) (p : BitVec 7) :
    (s.finish r p).done = true := rfl
@[simp] theorem State.finish_errpos (s : State) (r : Result) (p : BitVec 7) :
    (s.finish r p).errpos = p := rfl
@[simp] theorem State.finish_txlog (s : State) (r : Result) (p : BitVec 7) :
    (s.finish r p).txlog = s.txlog := rfl
@[simp] theorem State.finish_rxlog (s : State) (r : Result) (p : BitVec 7) :
    (s.finish r p).rxlog = s.rxlog := rfl
@[simp] theorem State.finish_rx (s : State) (r : Result) (p : BitVec 7) :
    (s.finish r p).rx = s.rx := rfl
@[simp] theorem State.finish_script (s : State) (r : Result) (p : BitVec 7) :
    (s.finish r p).script = s.script := rfl
@[simp] theorem State.finish_readLog (s : State) (r : Result) (p : BitVec 7) :
    (s.finish r p).readLog = s.readLog := rfl
@[simp] theorem State.finish_draws (s : State) (r : Result) (p : BitVec 7) :
    (s.finish r p).draws = s.draws := rfl

@[simp] theorem State.drawFrame_st (s : State) :
    s.drawFrame.st = s.st := rfl
@[simp] theorem State.drawFrame_frame (s : State) :
    s.drawFrame.frame = Config.scanFrame s.draws := rfl
@[simp] theorem State.drawFrame_result (s : State) :
    s.drawFrame.result = s.result := rfl
@[simp] theorem State.drawFrame_done (s : State) :
    s.drawFrame.done = s.done := rfl
@[simp] theorem State.drawFrame_errpos (s : State) :
    s.drawFrame.errpos = s.errpos := rfl
@[simp] theorem State.drawFrame_txlog (s : State) :
    s.drawFrame.txlog = s.txlog := rfl
@[simp] theorem State.drawFrame_rxlog (s : State) :
    s.drawFrame.rxlog = s.rxlog := rfl
@[simp] theorem State.drawFrame_rx (s : State) :
    s.drawFrame.rx = s.rx := rfl
@[simp] theorem State.drawFrame_script (s : State) :
    s.drawFrame.script = s.script := rfl
@[simp] theorem State.drawFrame_readLog (s : State) :
    s.drawFrame.readLog = s.readLog := rfl
@[simp] theorem State.drawFrame_draws (s : State) :
    s.drawFrame.draws = s.draws + 1 := rfl

@[simp] theorem State.transmit_st (s : State) (y : List Symbol) :
    (s.transmit y).st = s.st := rfl
@[simp] theorem State.transmit_frame (s : State) (y : List Symbol) :
    (s.transmit y).frame = s.frame := rfl
@[simp] theorem State.transmit_result (s : State) (y : List Symbol) :
    (s.transmit y).result = s.result := rfl
@[simp] theorem State.transmit_done (s : State) (y : List Symbol) :
    (s.transmit y).done = s.done := rfl
@[simp] theorem State.transmit_errpos (s : State) (y : List Symbol) :
    (s.transmit y).errpos = s.errpos := rfl
@[simp] theorem State.transmit_txlog (s : State) (y : List Symbol) :
    (s.transmit y).txlog = s.txlog ++ [⟨CFG.carrierHz, y⟩] := rfl
@[simp] theorem State.transmit_rxlog (s : State) (y : List Symbol) :
    (s.transmit y).rxlog = s.rxlog := rfl
@[simp] theorem State.transmit_rx (s : State) (y : List Symbol) :
    (s.transmit y).rx = s.rx := rfl
@[simp] theorem State.transmit_script (s : State) (y : List Symbol) :
    (s.transmit y).script = s.script := rfl
@[simp] theorem State.transmit_readLog (s : State) (y : List Symbol) :
    (s.transmit y).readLog = s.readLog := rfl
@[simp] theorem State.transmit_draws (s : State) (y : List Symbol) :
    (s.transmit y).draws = s.draws := rfl

@[simp] theorem State.hear_st (s : State) (l : Line) :
    (s.hear l).st = s.st := rfl
@[simp] theorem State.hear_frame (s : State) (l : Line) :
    (s.hear l).frame = s.frame := rfl
@[simp] theorem State.hear_result (s : State) (l : Line) :
    (s.hear l).result = s.result := rfl
@[simp] theorem State.hear_done (s : State) (l : Line) :
    (s.hear l).done = s.done := rfl
@[simp] theorem State.hear_errpos (s : State) (l : Line) :
    (s.hear l).errpos = s.errpos := rfl
@[simp] theorem State.hear_txlog (s : State) (l : Line) :
    (s.hear l).txlog = s.txlog := rfl
@[simp] theorem State.hear_rxlog (s : State) (l : Line) :
    (s.hear l).rxlog = l.log := rfl
@[simp] theorem State.hear_rx (s : State) (l : Line) :
    (s.hear l).rx = l.rx := rfl
@[simp] theorem State.hear_script (s : State) (l : Line) :
    (s.hear l).script = s.script := rfl
@[simp] theorem State.hear_readLog (s : State) (l : Line) :
    (s.hear l).readLog = s.readLog := rfl
@[simp] theorem State.hear_draws (s : State) (l : Line) :
    (s.hear l).draws = s.draws := rfl

@[simp] theorem State.loadReceiver_st (s : State) (c : List Symbol) (a : Answers) :
    (s.loadReceiver c a).st = s.st := rfl
@[simp] theorem State.loadReceiver_frame (s : State) (c : List Symbol) (a : Answers) :
    (s.loadReceiver c a).frame = s.frame := rfl
@[simp] theorem State.loadReceiver_result (s : State) (c : List Symbol) (a : Answers) :
    (s.loadReceiver c a).result = s.result := rfl
@[simp] theorem State.loadReceiver_done (s : State) (c : List Symbol) (a : Answers) :
    (s.loadReceiver c a).done = s.done := rfl
@[simp] theorem State.loadReceiver_errpos (s : State) (c : List Symbol) (a : Answers) :
    (s.loadReceiver c a).errpos = s.errpos := rfl
@[simp] theorem State.loadReceiver_txlog (s : State) (c : List Symbol) (a : Answers) :
    (s.loadReceiver c a).txlog = s.txlog := rfl
@[simp] theorem State.loadReceiver_rxlog (s : State) (c : List Symbol) (a : Answers) :
    (s.loadReceiver c a).rxlog = s.rxlog := rfl
@[simp] theorem State.loadReceiver_rx (s : State) (c : List Symbol) (a : Answers) :
    (s.loadReceiver c a).rx = ⟨c, 0, a⟩ := rfl
@[simp] theorem State.loadReceiver_script (s : State) (c : List Symbol) (a : Answers) :
    (s.loadReceiver c a).script = s.script := rfl
@[simp] theorem State.loadReceiver_readLog (s : State) (c : List Symbol) (a : Answers) :
    (s.loadReceiver c a).readLog = s.readLog := rfl
@[simp] theorem State.loadReceiver_draws (s : State) (c : List Symbol) (a : Answers) :
    (s.loadReceiver c a).draws = s.draws := rfl

@[simp] theorem State.receive_st (s : State) (y : Symbol) :
    (s.receive y).st = s.st := rfl
@[simp] theorem State.receive_frame (s : State) (y : Symbol) :
    (s.receive y).frame = s.frame := rfl
@[simp] theorem State.receive_result (s : State) (y : Symbol) :
    (s.receive y).result = s.result := rfl
@[simp] theorem State.receive_done (s : State) (y : Symbol) :
    (s.receive y).done = s.done := rfl
@[simp] theorem State.receive_errpos (s : State) (y : Symbol) :
    (s.receive y).errpos = s.errpos := rfl
@[simp] theorem State.receive_txlog (s : State) (y : Symbol) :
    (s.receive y).txlog = s.txlog := rfl
@[simp] theorem State.receive_rxlog (s : State) (y : Symbol) :
    (s.receive y).rxlog = s.rxlog := rfl
@[simp] theorem State.receive_rx (s : State) (y : Symbol) :
    (s.receive y).rx = { s.rx with capture := s.rx.capture ++ [y] } := rfl
@[simp] theorem State.receive_script (s : State) (y : Symbol) :
    (s.receive y).script = s.script := rfl
@[simp] theorem State.receive_readLog (s : State) (y : Symbol) :
    (s.receive y).readLog = s.readLog := rfl
@[simp] theorem State.receive_draws (s : State) (y : Symbol) :
    (s.receive y).draws = s.draws := rfl

@[simp] theorem State.logRead_st (s : State) (i : Nat) (v : BitVec 32) :
    (s.logRead i v).st = s.st := rfl
@[simp] theorem State.logRead_frame (s : State) (i : Nat) (v : BitVec 32) :
    (s.logRead i v).frame = s.frame := rfl
@[simp] theorem State.logRead_result (s : State) (i : Nat) (v : BitVec 32) :
    (s.logRead i v).result = s.result := rfl
@[simp] theorem State.logRead_done (s : State) (i : Nat) (v : BitVec 32) :
    (s.logRead i v).done = s.done := rfl
@[simp] theorem State.logRead_errpos (s : State) (i : Nat) (v : BitVec 32) :
    (s.logRead i v).errpos = s.errpos := rfl
@[simp] theorem State.logRead_txlog (s : State) (i : Nat) (v : BitVec 32) :
    (s.logRead i v).txlog = s.txlog := rfl
@[simp] theorem State.logRead_rxlog (s : State) (i : Nat) (v : BitVec 32) :
    (s.logRead i v).rxlog = s.rxlog := rfl
@[simp] theorem State.logRead_rx (s : State) (i : Nat) (v : BitVec 32) :
    (s.logRead i v).rx = s.rx := rfl
@[simp] theorem State.logRead_script (s : State) (i : Nat) (v : BitVec 32) :
    (s.logRead i v).script = s.script := rfl
@[simp] theorem State.logRead_readLog (s : State) (i : Nat) (v : BitVec 32) :
    (s.logRead i v).readLog = s.readLog ++ [(i, v)] := rfl
@[simp] theorem State.logRead_draws (s : State) (i : Nat) (v : BitVec 32) :
    (s.logRead i v).draws = s.draws := rfl

@[simp] theorem State.setScript_st (s : State) (rest : List Access) :
    (s.setScript rest).st = s.st := rfl
@[simp] theorem State.setScript_frame (s : State) (rest : List Access) :
    (s.setScript rest).frame = s.frame := rfl
@[simp] theorem State.setScript_result (s : State) (rest : List Access) :
    (s.setScript rest).result = s.result := rfl
@[simp] theorem State.setScript_done (s : State) (rest : List Access) :
    (s.setScript rest).done = s.done := rfl
@[simp] theorem State.setScript_errpos (s : State) (rest : List Access) :
    (s.setScript rest).errpos = s.errpos := rfl
@[simp] theorem State.setScript_txlog (s : State) (rest : List Access) :
    (s.setScript rest).txlog = s.txlog := rfl
@[simp] theorem State.setScript_rxlog (s : State) (rest : List Access) :
    (s.setScript rest).rxlog = s.rxlog := rfl
@[simp] theorem State.setScript_rx (s : State) (rest : List Access) :
    (s.setScript rest).rx = s.rx := rfl
@[simp] theorem State.setScript_script (s : State) (rest : List Access) :
    (s.setScript rest).script = rest := rfl
@[simp] theorem State.setScript_readLog (s : State) (rest : List Access) :
    (s.setScript rest).readLog = s.readLog := rfl
@[simp] theorem State.setScript_draws (s : State) (rest : List Access) :
    (s.setScript rest).draws = s.draws := rfl

@[simp] theorem State.restart_st (s : State) : s.restart.st = Config.resetSt (s.draws + 1) := rfl
@[simp] theorem State.restart_frame (s : State) : s.restart.frame = Config.resetFrame (s.draws + 1) := rfl
@[simp] theorem State.restart_result (s : State) : s.restart.result = .ok := rfl
@[simp] theorem State.restart_done (s : State) : s.restart.done = false := rfl
@[simp] theorem State.restart_errpos (s : State) : s.restart.errpos = 0#7 := rfl
@[simp] theorem State.restart_txlog (s : State) : s.restart.txlog = [] := rfl
@[simp] theorem State.restart_rxlog (s : State) : s.restart.rxlog = [] := rfl
@[simp] theorem State.restart_rx (s : State) : s.restart.rx = s.rx := rfl
@[simp] theorem State.restart_script (s : State) : s.restart.script = s.script := rfl
@[simp] theorem State.restart_readLog (s : State) : s.restart.readLog = s.readLog := rfl
@[simp] theorem State.restart_draws (s : State) : s.restart.draws = s.draws + 1 := rfl

@[simp] theorem State.setByte_eq (s : State) (i : Fin 13) (v : Byte) :
    s.setByte i v = s.setFrame (s.frame.set i v) := rfl
@[simp] theorem State.complete_eq (s : State) : s.complete = s.finish .ok 0#7 := rfl
@[simp] theorem State.raise_eq (s : State) (e : Result) (p : BitVec 7) : s.raise e p = s.finish e p := rfl
@[simp] theorem State.ldframe_eq (s : State) (f : Frame) : s.ldframe f = s.setFrame f := rfl
@[simp] theorem State.writeField_eq (s : State) (p : BytePlace) (c : Byte) :
    s.writeField p c = s.setFrame (s.frame.set (placeIndex p) c) := rfl
@[simp] theorem State.line_rx (s : State) : s.line.rx = s.rx := rfl
@[simp] theorem State.line_log (s : State) : s.line.log = s.rxlog := rfl

end Sys2Proof.Machine
end

