-- ==== Sys2Proof/Laws/Ops.lean ====
section
/-! SUPPORT. For each shared operation, what it can do, said once: how a command ends, what a receiver
does with a query, which register an index names, and what one line of a script can come to. -/

namespace Sys2Proof.Machine

/-- `settle` on an outcome of FrameDecode: ST_* on success, STATUS and ERRPOS always, nothing else. -/
theorem State.settle_eq (s : State) (d : Decoded) :
    s.settle d = match d with
      | .ok c => { s with st := c, result := .ok, done := true, errpos := 0#7 }
      | .staticMismatch => { s with result := .staticMismatch, done := true, errpos := 0#7 }
      | .checksumMismatch => { s with result := .checksumMismatch, done := true, errpos := 0#7 } := by
  cases d <;> rfl

@[simp] theorem State.settle_frame (s : State) (d : Decoded) : (s.settle d).frame = s.frame := by
  cases d <;> rfl
@[simp] theorem State.settle_done (s : State) (d : Decoded) : (s.settle d).done = true := by
  cases d <;> rfl
@[simp] theorem State.settle_errpos (s : State) (d : Decoded) : (s.settle d).errpos = 0#7 := by
  cases d <;> rfl
@[simp] theorem State.settle_txlog (s : State) (d : Decoded) : (s.settle d).txlog = s.txlog := by
  cases d <;> rfl
@[simp] theorem State.settle_rxlog (s : State) (d : Decoded) : (s.settle d).rxlog = s.rxlog := by
  cases d <;> rfl
@[simp] theorem State.settle_rx (s : State) (d : Decoded) : (s.settle d).rx = s.rx := by
  cases d <;> rfl
@[simp] theorem State.settle_script (s : State) (d : Decoded) : (s.settle d).script = s.script := by
  cases d <;> rfl
@[simp] theorem State.settle_readLog (s : State) (d : Decoded) :
    (s.settle d).readLog = s.readLog := by
  cases d <;> rfl
@[simp] theorem State.settle_draws (s : State) (d : Decoded) : (s.settle d).draws = s.draws := by
  cases d <;> rfl

/-- A result other than Ok means the snapshot was not touched (R170). -/
theorem State.settle_st (s : State) (d : Decoded) (h : (s.settle d).result ≠ .ok) :
    (s.settle d).st = s.st := by
  cases d
  · exact absurd rfl h
  · rfl
  · rfl

@[simp] theorem State.endScan_done (s : State) (o : Scan) : (s.endScan o).done = true := by
  cases o <;> simp [State.endScan]
@[simp] theorem State.endScan_txlog (s : State) (o : Scan) : (s.endScan o).txlog = s.txlog := by
  cases o <;> simp [State.endScan]
@[simp] theorem State.endScan_rxlog (s : State) (o : Scan) : (s.endScan o).rxlog = s.rxlog := by
  cases o <;> simp [State.endScan]
@[simp] theorem State.endScan_rx (s : State) (o : Scan) : (s.endScan o).rx = s.rx := by
  cases o <;> simp [State.endScan]
@[simp] theorem State.endScan_script (s : State) (o : Scan) : (s.endScan o).script = s.script := by
  cases o <;> simp [State.endScan]
@[simp] theorem State.endScan_readLog (s : State) (o : Scan) :
    (s.endScan o).readLog = s.readLog := by
  cases o <;> simp [State.endScan]

/-- A present answer moves the cursor past one symbol, an absent one leaves it (R49). -/
theorem Receiver.after_cursor (r : Receiver) (q : RxQuery) :
    (r.after q).cursor = if r.present q then r.cursor + 1 else r.cursor := rfl

/-- The reference receiver keeps its capture and its comparison; only its cursor moves (R59). -/
theorem Receiver.after_reference {r : Receiver} {m : MatchRule} (h : r.answers = .reference m)
    (q : RxQuery) :
    r.after q = ⟨r.capture, if r.present q then r.cursor + 1 else r.cursor, .reference m⟩ := by
  simp [Receiver.after, h, Answers.spend]

/-- The reference receiver with a symbol left compares that symbol (R59). -/
theorem Receiver.present_reference {c : List Symbol} {n : Nat} {m : MatchRule} {y : Symbol}
    {ys : List Symbol} (h : c.drop n = y :: ys) (q : RxQuery) :
    (⟨c, n, .reference m⟩ : Receiver).present q = q.fits m y := by
  have : (c)[n]? = some y := by
    rw [← List.head?_drop, h]; rfl
  simp [Receiver.present, this]

/-- An oracle answers what its list says next, absent when it is empty (R51, R49). -/
@[simp] theorem Receiver.present_oracle (c : List Symbol) (n : Nat) (a : List Bool) (q : RxQuery) :
    (⟨c, n, .oracle a⟩ : Receiver).present q = a.headD false := rfl

/-- No register stands at an unmapped index of table T4 (R45). -/
theorem regAt_none_iff (idx : Nat) :
    regAt idx = none ↔ idx = 0x03 ∨ (0x09 ≤ idx ∧ idx ≤ 0x0F) ∨ 0x1D ≤ idx := by
  unfold regAt
  split_ifs <;> simp <;> omega

/-- FRAME[i] stands at 0x10 + i (table T4). -/
@[simp] theorem regAt_frame (i : Fin 13) : regAt (0x10 + i.val) = some (.frame i) := by
  fin_cases i <;> rfl

/-- Only index 0x00 names CMD (table T4). -/
theorem regAt_cmd {idx : Nat} (h : regAt idx = some .cmd) : idx = 0 := by
  unfold regAt at h
  split_ifs at h <;> first | assumption | simp at h

/-- Every row of the table ends in a next state: nothing an instruction does faults or is refused. -/
theorem exec_next (i : Instr) (s : State) : ∃ t, exec i s = .next t := by
  cases i <;> exact ⟨_, rfl⟩

/-- A line of a script is refused exactly where it reads or writes an unmapped index; else it ends in a
next state (R45). -/
theorem perform_cases (a : Access) (s : State) :
    (∃ t, perform a s = .next t) ∨
      ∃ idx, regAt idx = none ∧ (a = .rd idx ∨ ∃ v, a = .wr idx v) ∧
        perform a s = .refused (.unmappedIndex idx) := by
  cases a with
  | rd idx =>
    cases h : regAt idx with
    | none => exact .inr ⟨idx, h, .inl rfl, by simp [perform, h]⟩
    | some r => exact .inl ⟨_, by simp only [perform, h]; rfl⟩
  | wr idx v =>
    cases h : regAt idx with
    | none => exact .inr ⟨idx, h, .inr ⟨v, rfl⟩, by simp [perform, h]⟩
    | some r =>
      left
      cases r with
      | cmd => simpa [perform, h] using exec_next (decodeCmd v) s
      | _ => exact ⟨_, by simp only [perform, h]; rfl⟩
  | ldframe w =>
    left
    cases h : decodeFrame w with
    | ok i => simpa [perform, h] using exec_next i s
    | error e => exact ⟨_, by simp only [perform, h]; rfl⟩
  | wrfield p c =>
    left
    cases h : decodeField8 p c with
    | ok i => simpa [perform, h] using exec_next i s
    | error e => exact ⟨_, by simp only [perform, h]; rfl⟩
  | wrtemp c => exact .inl (exec_next (.temp c) s)
  | wrswing c =>
    left
    cases h : decodeField3 c with
    | ok i => simpa [perform, h] using exec_next i s
    | error e => exact ⟨_, by simp only [perform, h]; rfl⟩
  | rxsymbol w =>
    left
    cases h : decodeSymbol w with
    | ok i => simpa [perform, h] using exec_next i s
    | error e => exact ⟨_, by simp only [perform, h]; rfl⟩
  | rxload c a => exact .inl ⟨_, rfl⟩
  | reset => exact .inl ⟨_, rfl⟩

end Sys2Proof.Machine
end

