-- ==== Sys2Proof/Laws/PerInstr.lean ====
section
/-! SUPPORT. What every row's word looks like against the opcode table: family `Row`. For each
constructor, every word that `encode` writes for it meets the mask and match printed in its row of
spec/opcode_table.json. -/

namespace Sys2Proof.Laws.Row

/-- The word lies under `mask` as `pat`. -/
def Cmd (t : TableWord) (mask pat : BitVec 32) : Prop := ∃ v, t = .cmd v ∧ v &&& mask = pat

/-- The frame word lies under `mask` as `pat`. -/
def Whole (t : TableWord) (mask pat : BitVec 104) : Prop := ∃ w, t = .frame w ∧ w &&& mask = pat

/-- The mask and match of each row of the table. -/
def Statement : Instr → Prop
  | i@(.fenc _) => Cmd (encode i) 0x00000007 0x00000001
  | i@(.fdec _) => Cmd (encode i) 0x00000007 0x00000002
  | i@(.penc _) => Cmd (encode i) 0x00000007 0x00000003
  | i@(.pdec _) => Cmd (encode i) 0x00000007 0x00000004
  | i@(.xmit _) => Cmd (encode i) 0x00000007 0x00000005
  | i@(.reserved0 _) => Cmd (encode i) 0x00000007 0x00000000
  | i@(.reserved67 _ _) => Cmd (encode i) 0x00000006 0x00000006
  | i@(.frame ..) =>
    Whole (encode i) 0x0000FF000000000000FFFF00FF 0x000020000000000000122000C3
  | i@(.frameEncoded ..) =>
    Whole (encode i) 0x00FFFF00FFFF00FF00FFFF00FF 0x000520000000000000122000C3
  | .id0 => encode .id0 = .field8 .id0 0xC3
  | .id2 => encode .id2 = .field8 .id2 0x20
  | .id3 => encode .id3 = .field8 .id3 0x12
  | .id10 => encode .id10 = .field8 .id10 0x20
  | .temp t => encode (.temp t) = .field5 t
  | .swingOff => encode .swingOff = .field3 0x0
  | .swingVertical => encode .swingVertical = .field3 0x7
  | .fanAuto => encode .fanAuto = .field8 .fan 0xA0
  | .fanLow => encode .fanLow = .field8 .fan 0x20
  | .fanMedium => encode .fanMedium = .field8 .fan 0x40
  | .fanHigh => encode .fanHigh = .field8 .fan 0x60
  | .fanNone => encode .fanNone = .field8 .fan 0x00
  | .modeAuto => encode .modeAuto = .field8 .mode 0x00
  | .modeCool => encode .modeCool = .field8 .mode 0x20
  | .modeHeat => encode .modeHeat = .field8 .mode 0x80
  | .modeDry => encode .modeDry = .field8 .mode 0x40
  | .modeFanonly => encode .modeFanonly = .field8 .mode 0xC0
  | .powerOn => encode .powerOn = .field8 .power 0x20
  | .powerOff => encode .powerOff = .field8 .power 0x00
  | .button => encode .button = .field8 .button 0x05
  | .hdr => encode .hdr = .symbol 0x23001185
  | .zero => encode .zero = .symbol 0x027102AD
  | .one => encode .one = .symbol 0x0271078F
  | .ftr => encode .ftr = .symbol 0x02710000

/-- Bits 2:0 of a CMD value are the code it was built from. -/
theorem cmdWord_and_seven (ign : BitVec 29) (c : BitVec 3) :
    cmdWord ign c &&& 0x00000007 = c.setWidth 32 := by
  refine BitVec.eq_of_getLsbD_eq fun k hk => ?_
  have h7 : (0x00000007 : BitVec 32) = (BitVec.allOnes 3).setWidth 32 := by decide
  rw [h7]
  simp only [cmdWord, BitVec.getLsbD_and, BitVec.getLsbD_or, BitVec.getLsbD_shiftLeft,
    BitVec.getLsbD_setWidth, BitVec.getLsbD_allOnes, hk, decide_true, Bool.true_and]
  by_cases h : k < 3
  · simp [h]
  · simp [h, BitVec.getLsbD_of_ge c k (by omega)]

theorem fenc (ign : BitVec 29) : Statement (.fenc ign) := ⟨_, rfl, cmdWord_and_seven ign _⟩
theorem fdec (ign : BitVec 29) : Statement (.fdec ign) := ⟨_, rfl, cmdWord_and_seven ign _⟩
theorem penc (ign : BitVec 29) : Statement (.penc ign) := ⟨_, rfl, cmdWord_and_seven ign _⟩
theorem pdec (ign : BitVec 29) : Statement (.pdec ign) := ⟨_, rfl, cmdWord_and_seven ign _⟩
theorem xmit (ign : BitVec 29) : Statement (.xmit ign) := ⟨_, rfl, cmdWord_and_seven ign _⟩
theorem reserved0 (ign : BitVec 29) : Statement (.reserved0 ign) := ⟨_, rfl, cmdWord_and_seven ign _⟩
theorem reserved67 (ign : BitVec 29) (low : BitVec 1) : Statement (.reserved67 ign low) := by
  refine ⟨_, rfl, ?_⟩
  have h6 : (0x00000006 : BitVec 32) = 0x00000007 &&& 0x00000006 := by decide
  have hc : ∀ l : BitVec 1, (6#3 ||| l.setWidth 3).setWidth 32 &&& 0x00000006#32 = 0x00000006#32 := by decide
  rw [h6, ← BitVec.and_assoc, cmdWord_and_seven]
  exact hc low

theorem frame (swing : BitVec 3) (temp : BitVec 5)
    (fan byte5 mode byte7 byte8 power btn checksum : Byte) :
    Statement (.frame swing temp fan byte5 mode byte7 byte8 power btn checksum) := by
  refine ⟨_, rfl, ?_⟩
  have hm : (0x0000FF000000000000FFFF00FF : BitVec 104)
      = Frame.toWord ⟨0xFF, 0, 0xFF, 0xFF, 0, 0, 0, 0, 0, 0, 0xFF, 0, 0⟩ := by decide +kernel
  have hp : (0x000020000000000000122000C3 : BitVec 104)
      = Frame.toWord ⟨0xC3, 0, 0x20, 0x12, 0, 0, 0, 0, 0, 0, 0x20, 0, 0⟩ := by decide +kernel
  rw [hm, hp, Frame.toWord_and]
  simp [Frame.and, CFG]

theorem frameEncoded (swing : BitVec 3) (temp : BitVec 5) (fan mode power checksum : Byte) :
    Statement (.frameEncoded swing temp fan mode power checksum) := by
  refine ⟨_, rfl, ?_⟩
  have hm : (0x00FFFF00FFFF00FF00FFFF00FF : BitVec 104)
      = Frame.toWord ⟨0xFF, 0, 0xFF, 0xFF, 0, 0xFF, 0, 0xFF, 0xFF, 0, 0xFF, 0xFF, 0⟩ := by decide +kernel
  have hp : (0x000520000000000000122000C3 : BitVec 104)
      = Frame.toWord ⟨0xC3, 0, 0x20, 0x12, 0, 0, 0, 0, 0, 0, 0x20, 0x05, 0⟩ := by decide +kernel
  rw [hm, hp, Frame.toWord_and]
  simp [Frame.and, CFG]

theorem id0 : Statement .id0 := rfl
theorem id2 : Statement .id2 := rfl
theorem id3 : Statement .id3 := rfl
theorem id10 : Statement .id10 := rfl
theorem temp (t : BitVec 5) : Statement (.temp t) := rfl
theorem swingOff : Statement .swingOff := rfl
theorem swingVertical : Statement .swingVertical := rfl
theorem fanAuto : Statement .fanAuto := rfl
theorem fanLow : Statement .fanLow := rfl
theorem fanMedium : Statement .fanMedium := rfl
theorem fanHigh : Statement .fanHigh := rfl
theorem fanNone : Statement .fanNone := rfl
theorem modeAuto : Statement .modeAuto := rfl
theorem modeCool : Statement .modeCool := rfl
theorem modeHeat : Statement .modeHeat := rfl
theorem modeDry : Statement .modeDry := rfl
theorem modeFanonly : Statement .modeFanonly := rfl
theorem powerOn : Statement .powerOn := rfl
theorem powerOff : Statement .powerOff := rfl
theorem button : Statement .button := rfl
theorem hdr : Statement .hdr := rfl
theorem zero : Statement .zero := rfl
theorem one : Statement .one := rfl
theorem ftr : Statement .ftr := rfl

end Sys2Proof.Laws.Row
end

