-- ==== Sys2Proof/Laws/Pulse.lean ====
section
/-! SUPPORT. The linear scan of PDEC: which bits a receiver's answers spell (`Reads`), what the buffer
then holds (`setBits`), and everything scanBits can come to. -/

namespace Sys2Proof.Machine

/-- From port `l` the answers spell the data bits `bs`, one query for a 1 and two for a 0, and leave the
port `l'` (R142, R149). -/
inductive Reads : Line → List Bool → Line → Prop where
  | nil (l : Line) : Reads l [] l
  | one {l : Line} {bs : List Bool} {l' : Line} : l.answer queryOne = true →
      Reads (l.ask queryOne) bs l' → Reads l (true :: bs) l'
  | zero {l : Line} {bs : List Bool} {l' : Line} : l.answer queryOne = false →
      (l.ask queryOne).answer queryZero = true →
      Reads ((l.ask queryOne).ask queryZero) bs l' → Reads l (false :: bs) l'

/-- The buffer after the bits `bs`, the first of them bit `k` (R140). -/
def setBits (k : Nat) (bs : List Bool) (buf : Frame) : Frame :=
  match bs with
  | [] => buf
  | true :: bs => setBits (k + 1) bs (buf.setBit k)
  | false :: bs => setBits (k + 1) bs buf

/-- The scan over bits that are all read. -/
theorem scanBits_reads {l l' : Line} {bs : List Bool} (h : Reads l bs l') (m k : Nat) (buf : Frame) :
    scanBits (bs.length + m) k buf l = scanBits m (k + bs.length) (setBits k bs buf) l' := by
  induction h generalizing k buf with
  | nil l => simp [setBits]
  | @one l bs l' h1 _ ih =>
    have e : (true :: bs).length + m = (bs.length + m) + 1 := by simp only [List.length_cons]; omega
    rw [e, scanBits]
    simp only [h1, if_true, setBits]
    rw [ih, List.length_cons]
    congr 1; omega
  | @zero l bs l' h1 h2 _ ih =>
    have e : (false :: bs).length + m = (bs.length + m) + 1 := by simp only [List.length_cons]; omega
    rw [e, scanBits]
    simp only [h1, h2, if_true, setBits, Bool.false_eq_true, if_false]
    rw [ih, List.length_cons]
    congr 1; omega

/-- Everything the scan of the data bits can come to: all `n` are read, or the first that matched
neither pair ends it after its two queries (R142). -/
theorem scanBits_cases (n k : Nat) (buf : Frame) (l : Line) :
    ∃ bs l', Reads l bs l' ∧
      ((bs.length = n ∧ scanBits n k buf l = (.ok (setBits k bs buf), l')) ∨
        (bs.length < n ∧ l'.answer queryOne = false ∧ (l'.ask queryOne).answer queryZero = false ∧
          scanBits n k buf l = (.error (k + bs.length), (l'.ask queryOne).ask queryZero))) := by
  induction n generalizing k buf l with
  | zero => exact ⟨[], l, .nil l, .inl ⟨rfl, rfl⟩⟩
  | succ n ih =>
    cases h1 : l.answer queryOne with
    | true =>
      obtain ⟨bs, l', hr, h⟩ := ih (k + 1) (buf.setBit k) (l.ask queryOne)
      refine ⟨true :: bs, l', .one h1 hr, ?_⟩
      have e : scanBits (n + 1) k buf l = scanBits n (k + 1) (buf.setBit k) (l.ask queryOne) := by
        rw [scanBits]; simp only [h1, if_true]
      rw [e]
      simpa [setBits, Nat.add_assoc, Nat.add_comm 1] using h
    | false =>
      cases h2 : (l.ask queryOne).answer queryZero with
      | true =>
        obtain ⟨bs, l', hr, h⟩ := ih (k + 1) buf ((l.ask queryOne).ask queryZero)
        refine ⟨false :: bs, l', .zero h1 h2 hr, ?_⟩
        have e : scanBits (n + 1) k buf l =
            scanBits n (k + 1) buf ((l.ask queryOne).ask queryZero) := by
          rw [scanBits]; simp only [h1, h2, if_true, Bool.false_eq_true, if_false]
        rw [e]
        simpa [setBits, Nat.add_assoc, Nat.add_comm 1] using h
      | false =>
        refine ⟨[], l, .nil l, .inr ⟨Nat.succ_pos n, h1, h2, ?_⟩⟩
        rw [scanBits]; simp [h1, h2]

/-- What setting the bits `bs` from bit `k` on makes of data bit `j`. -/
theorem bit_setBits (bs : List Bool) (k : Nat) (buf : Frame) {j : Nat} (hj : j < 104)
    (hk : k + bs.length ≤ 104) :
    (setBits k bs buf).bit j = (buf.bit j || (decide (k ≤ j) && bs.getD (j - k) false)) := by
  induction bs generalizing k buf with
  | nil => simp [setBits]
  | cons b bs ih =>
    simp only [List.length_cons] at hk
    have hk' : k + 1 + bs.length ≤ 104 := by omega
    have e : j ≠ k → k ≤ j → (b :: bs).getD (j - k) false = bs.getD (j - (k + 1)) false := by
      intro h1 h2
      have : j - k = (j - (k + 1)) + 1 := by omega
      rw [this, List.getD_cons_succ]
    cases b <;> simp only [setBits] <;> rw [ih _ _ hk']
    · by_cases h1 : j = k
      · subst h1; simp
      · by_cases h2 : k ≤ j
        · rw [e h1 h2]; have : k + 1 ≤ j := by omega
          simp [h2, this]
        · have : ¬ k + 1 ≤ j := by omega
          simp [h2, this]
    · rw [Frame.bit_setBit _ (by omega) hj]
      by_cases h1 : j = k
      · subst h1; simp
      · by_cases h2 : k ≤ j
        · rw [e h1 h2]; have : k + 1 ≤ j := by omega
          simp [h1, h2, this]
        · have : ¬ k + 1 ≤ j := by omega
          simp [h1, h2, this]

/-- Assembling the data bits of a frame gives the frame (R140, R133). -/
theorem setBits_bits (f : Frame) : setBits 0 f.bits Frame.zero = f := by
  refine Frame.ext_bit fun j hj => ?_
  rw [bit_setBits _ _ _ hj (by simp)]
  simp [Frame.bits_eq, hj]

/-- Assembling any 104 bits gives the frame that has them. -/
theorem bits_setBits {bs : List Bool} (h : bs.length = 104) : (setBits 0 bs Frame.zero).bits = bs := by
  apply List.ext_getElem
  · simp [h]
  · intro j h1 h2
    have hj : j < 104 := by simpa using h1
    simp only [Frame.bits_eq, List.getElem_map, List.getElem_range]
    rw [bit_setBits _ _ _ hj (by omega)]
    simp [List.getD_eq_getElem?_getD, List.getElem?_eq_getElem h2]

/-- The entries RXLOG gains while `bs` is read (R147). -/
def readEvents : List Bool → List RxEvent
  | [] => []
  | true :: bs => ⟨queryOne, true⟩ :: readEvents bs
  | false :: bs => ⟨queryOne, false⟩ :: ⟨queryZero, true⟩ :: readEvents bs

/-- RXLOG after the bits `bs` were read. -/
theorem Reads.log {l l' : Line} {bs : List Bool} (h : Reads l bs l') :
    l'.log = l.log ++ readEvents bs := by
  induction h with
  | nil l => simp [readEvents]
  | one h1 _ ih =>
    have h1' := h1
    simp only [Line.answer] at h1'
    simp [ih, readEvents, Line.ask, h1']
  | zero h1 h2 _ ih =>
    have h1' := h1
    have h2' := h2
    simp only [Line.answer, Line.ask] at h1' h2'
    simp [ih, readEvents, Line.ask, h1', h2']

/-- Each bit costs one or two queries (R147). -/
theorem length_readEvents (bs : List Bool) :
    bs.length ≤ (readEvents bs).length ∧ (readEvents bs).length ≤ 2 * bs.length := by
  induction bs with
  | nil => simp [readEvents]
  | cons b bs ih => cases b <;> simp [readEvents] <;> omega

/-- The answers of an oracle that spell `bs`. -/
def spell : List Bool → List Bool
  | [] => []
  | true :: bs => true :: spell bs
  | false :: bs => false :: true :: spell bs

/-- An oracle with those answers is read as `bs`; each 1 bit and each 0 bit consumes one symbol. -/
theorem reads_oracle (c : List Symbol) (n : Nat) (bs rest : List Bool) (log : List RxEvent) :
    Reads ⟨⟨c, n, .oracle (spell bs ++ rest)⟩, log⟩ bs
      ⟨⟨c, n + bs.length, .oracle rest⟩, log ++ readEvents bs⟩ := by
  induction bs generalizing n log with
  | nil => simpa [spell, readEvents] using Reads.nil _
  | cons b bs ih =>
    cases b with
    | true =>
      refine .one rfl ?_
      have := ih (n + 1) (log ++ [⟨queryOne, true⟩])
      simpa [spell, readEvents, Line.ask, Receiver.after, Answers.spend, Receiver.present,
        Nat.add_assoc, Nat.add_comm 1] using this
    | false =>
      refine .zero rfl rfl ?_
      have := ih (n + 1) (log ++ [⟨queryOne, false⟩, ⟨queryZero, true⟩])
      simpa [spell, readEvents, Line.ask, Receiver.after, Answers.spend, Receiver.present,
        Nat.add_assoc, Nat.add_comm 1] using this

/-- The reference receiver over the symbols of `bs`, when its comparison accepts each nominal value and
tells the two spaces apart (R148). -/
theorem reads_reference {m : MatchRule} (h625 : m.holds 625 625 = true)
    (h1935 : m.holds 1935 1935 = true) (h685 : m.holds 685 685 = true)
    (hd : m.holds 1935 685 = false) (c : List Symbol) (n : Nat) (bs : List Bool)
    (extra : List Symbol) (log : List RxEvent) (h : c.drop n = bs.map bitSymbol ++ extra) :
    Reads ⟨⟨c, n, .reference m⟩, log⟩ bs
      ⟨⟨c, n + bs.length, .reference m⟩, log ++ readEvents bs⟩ := by
  induction bs generalizing n log with
  | nil => simpa [readEvents] using Reads.nil _
  | cons b bs ih =>
    have h' : c.drop (n + 1) = bs.map bitSymbol ++ extra := by
      rw [← List.drop_drop, h]; rfl
    have hp := fun q => Receiver.present_reference (m := m) (q := q) h
    cases b with
    | true =>
      have h1 : (⟨c, n, .reference m⟩ : Receiver).present queryOne = true := by
        rw [hp]; simp [RxQuery.fits, queryOne, bitSymbol, oneSymbol, CFG, h625, h1935]
      refine .one h1 ?_
      have := ih (n + 1) (log ++ [⟨queryOne, true⟩]) h'
      simpa [readEvents, Line.ask, Receiver.after, Answers.spend, h1, Nat.add_assoc,
        Nat.add_comm 1] using this
    | false =>
      have h1 : (⟨c, n, .reference m⟩ : Receiver).present queryOne = false := by
        rw [hp]; simp [RxQuery.fits, queryOne, bitSymbol, zeroSymbol, CFG, h625, hd]
      have h2 : (⟨c, n, .reference m⟩ : Receiver).present queryZero = true := by
        rw [hp]; simp [RxQuery.fits, queryZero, bitSymbol, zeroSymbol, CFG, h625, h685]
      refine .zero h1 ?_ ?_
      · simpa [Line.ask, Line.answer, Receiver.after, Answers.spend, h1] using h2
      have := ih (n + 1) (log ++ [⟨queryOne, false⟩, ⟨queryZero, true⟩]) h'
      simpa [readEvents, Line.ask, Receiver.after, Answers.spend, h1, h2, Nat.add_assoc,
        Nat.add_comm 1] using this

/-- A port is asked the same whatever its log holds; the log gains the query at its end. -/
theorem Line.ask_mk (r : Receiver) (log : List RxEvent) (q : RxQuery) :
    (⟨r, log⟩ : Line).ask q = ⟨r.after q, log ++ [⟨q, r.present q⟩]⟩ := rfl

/-- The scan of the data bits is a function of the receiver: RXLOG only gains entries, the same
whatever it held (R30). -/
theorem scanBits_log (n k : Nat) (buf : Frame) (r : Receiver) :
    ∃ o r' es, ∀ log, scanBits n k buf ⟨r, log⟩ = (o, ⟨r', log ++ es⟩) := by
  induction n generalizing k buf r with
  | zero => exact ⟨.ok buf, r, [], fun log => by simp [scanBits]⟩
  | succ n ih =>
    cases h1 : r.present queryOne with
    | true =>
      obtain ⟨o, r', es, h⟩ := ih (k + 1) (buf.setBit k) (r.after queryOne)
      refine ⟨o, r', ⟨queryOne, true⟩ :: es, fun log => ?_⟩
      rw [scanBits]
      simp [Line.answer, Line.ask_mk, h1, h]
    | false =>
      cases h2 : (r.after queryOne).present queryZero with
      | true =>
        obtain ⟨o, r', es, h⟩ := ih (k + 1) buf ((r.after queryOne).after queryZero)
        refine ⟨o, r', ⟨queryOne, false⟩ :: ⟨queryZero, true⟩ :: es, fun log => ?_⟩
        rw [scanBits]
        simp [Line.answer, Line.ask_mk, h1, h2, h]
      | false =>
        refine ⟨.error k, (r.after queryOne).after queryZero,
          [⟨queryOne, false⟩, ⟨queryZero, false⟩], fun log => ?_⟩
        rw [scanBits]
        simp [Line.answer, Line.ask_mk, h1, h2]

/-- The whole scan is a function of the receiver, and RXLOG gains the same entries whatever it held. -/
theorem scan_log (r : Receiver) :
    ∃ o r' es, ∀ log, scan ⟨r, log⟩ = (o, ⟨r', log ++ es⟩) := by
  cases h1 : r.present queryHeader with
  | false =>
    exact ⟨.headerMismatch, r.after queryHeader, [⟨queryHeader, false⟩], fun log => by
      simp [scan, Line.answer, Line.ask_mk, h1]⟩
  | true =>
    obtain ⟨o, r', es, h⟩ := scanBits_log CFG.dataBits 0 Frame.zero (r.after queryHeader)
    cases o with
    | error k =>
      exact ⟨.bitMismatch k, r', ⟨queryHeader, true⟩ :: es, fun log => by
        simp [scan, Line.answer, Line.ask_mk, h1, h]⟩
    | ok buf =>
      cases h2 : r'.present queryFooter with
      | true =>
        exact ⟨.read buf, r'.after queryFooter, ⟨queryHeader, true⟩ :: es ++ [⟨queryFooter, true⟩],
          fun log => by simp [scan, Line.answer, Line.ask_mk, h1, h, h2]⟩
      | false =>
        exact ⟨.footerMismatch, r'.after queryFooter,
          ⟨queryHeader, true⟩ :: es ++ [⟨queryFooter, false⟩],
          fun log => by simp [scan, Line.answer, Line.ask_mk, h1, h, h2]⟩

@[simp] theorem length_pulseEncode (f : Frame) : (pulseEncode f).length = 106 := by
  simp [pulseEncode]

end Sys2Proof.Machine
end

