-- ==== Sys2Proof/Tests/Slice0.lean ====
section
/-! SUPPORT. The model's own tests: ill-formed terms, words written out from the spec's encodings, the
spec's vectors (spec/95_test_vectors.md), and a witness for the hypotheses of every statement. Every
expected value is the spec's. -/

namespace Sys2Proof.Tests

open Sys2Proof Sys2Proof.Machine Sys2Proof.Claims

/-! ## States to test on -/

/-- The frame of V1: on, Cool, Auto, Off, 24. -/
def v1 : Frame := ⟨0xC3, 0x80, 0x20, 0x12, 0xA0, 0x00, 0x20, 0x00, 0x00, 0x20, 0x20, 0x05, 0x7A⟩

/-- The `prev` of the FDEC vectors: (1, Heat[2], High[3], Vertical[1], 30). -/
def prev : Snapshot := ⟨1, 2, 3, 1, 30⟩

/-- The snapshot of V1: (1, Cool[1], Auto[0], Off[0], 24). -/
def cool24 : Snapshot := ⟨1, 1, 0, 0, 24⟩

/-- A state with snapshot `c` and frame `f`, an empty reference receiver and no access to come. -/
def at' (c : Snapshot) (f : Frame) : State where
  st      := c
  frame   := f
  result  := .ok
  done    := false
  errpos  := 0
  txlog   := []
  rxlog   := []
  rx      := ⟨[], 0, .reference .exact⟩
  script  := []
  readLog := []
  draws   := 0

/-- `prev` and V1, with the reference receiver on the capture `cap`, exact equality (R59). -/
def heard (cap : List Symbol) : State := { at' prev v1 with rx := ⟨cap, 0, .reference .exact⟩ }

/-- The state with the host's next access. -/
def next' (s : State) (a : Access) : State := { s with script := [a] }

/-- The next state of an outcome, where there is one. -/
def after (o : Host.Outcome State Fault Refusal) : Option State :=
  match o with
  | .next t => some t
  | .fault _ => none
  | .refused _ => none

/-- The refusal of an outcome, where there is one. -/
def refusal (o : Host.Outcome State Fault Refusal) : Option Refusal :=
  match o with
  | .next _ => none
  | .fault _ => none
  | .refused r => some r

/-- FRAME after the row `i` on snapshot `c` and frame `f`. -/
def frameAfter (i : Instr) (c : Snapshot) (f : Frame) : Option Frame :=
  (after (exec i (at' c f))).map (·.frame)

/-- RESULT and ST_* after the row `i` on `prev` and frame `f`. -/
def endsWith (i : Instr) (c : Snapshot) (f : Frame) : Option (Result × Snapshot) :=
  (after (exec i (at' c f))).map fun t => (t.result, t.st)

/-- RESULT, ERRPOS, ST_*, the receiver's cursor and the number of queries after a PDEC on `cap`. -/
def pdecOf (cap : List Symbol) : Option (Result × BitVec 7 × Snapshot × Nat × Nat) :=
  (after (exec (.pdec 0) (heard cap))).map fun t =>
    (t.result, t.errpos, t.st, t.rx.cursor, t.rxlog.length)

/-- What the row decoded from a word is. -/
def reads (t : TableWord) : Option Instr := (decode t).toOption

/-- The value the host's read of `idx` returns. -/
def readOf (s : State) (idx : Nat) : Option (List (Nat × BitVec 32)) :=
  (after (step (next' s (.rd idx)))).map (·.readLog)

/-! ## Ill-formed terms -/

/-- A FRAME term that is the encoder's own word belongs to FRAME.ENCODED. -/
theorem test_illFormed_frame :
    (Instr.frame 0 16 0xA0 0x00 0x20 0x00 0x00 0x20 0x05 0x7A).wellFormed = false := by decide

/-- FRAME.ENCODED with a fan code table T6 does not list. -/
theorem test_illFormed_frameEncoded :
    (Instr.frameEncoded 0 16 0xA1 0x20 0x20 0x7B).wellFormed = false := by decide

/-- FRAME.ENCODED with a mode code table T7 does not list, a power code R77 does not, a swing code R76
does not. -/
theorem test_illFormed_frameEncoded_codes :
    (Instr.frameEncoded 0 16 0xA0 0x60 0x20 0xBA).wellFormed = false
      ∧ (Instr.frameEncoded 0 16 0xA0 0x20 0x40 0x9A).wellFormed = false
      ∧ (Instr.frameEncoded 3 16 0xA0 0x20 0x20 0x7D).wellFormed = false := by decide

/-! ## Decoding: words written out from tables T5 to T9 -/

/-- Codes 0 to 7, and bits above the code (V50 to V52). -/
theorem test_decode_commands :
    reads (.cmd 0x00000001) = some (.fenc 0)
      ∧ reads (.cmd 0x00000002) = some (.fdec 0)
      ∧ reads (.cmd 0x00000003) = some (.penc 0)
      ∧ reads (.cmd 0x00000004) = some (.pdec 0)
      ∧ reads (.cmd 0x00000005) = some (.xmit 0)
      ∧ reads (.cmd 0x00000000) = some (.reserved0 0)
      ∧ reads (.cmd 0x00000006) = some (.reserved67 0 0)
      ∧ reads (.cmd 0x00000007) = some (.reserved67 0 1)
      ∧ reads (.cmd 0x00000009) = some (.fenc 1)
      ∧ reads (.cmd 0xFFFFFFFD) = some (.xmit 0x1FFFFFFF) := by decide

/-- The words of V1 and V2, and of V26, whose bytes 5, 7 and 8 are not the encoder's. -/
theorem test_decode_frames :
    reads (.frame 0x7A05202000002000A0122080C3) = some (.frameEncoded 0 16 0xA0 0x20 0x20 0x7A)
      ∧ reads (.frame 0xD105202000008000601220B7C3) = some (.frameEncoded 7 22 0x60 0x80 0x20 0xD1)
      ∧ reads (.frame 0xE005202033222011A0122080C3)
        = some (.frame 0 16 0xA0 0x11 0x20 0x22 0x33 0x20 0x05 0xE0)
      ∧ reads (.frame 0x7A05202000002000A0122080C2) = none := by decide +kernel

/-- The identifier bytes and the button (R61, R64, R65, R69, R71), each at its byte. -/
theorem test_decode_constants :
    reads (.field8 .id0 0b11000011) = some .id0
      ∧ reads (.field8 .id2 0b00100000) = some .id2
      ∧ reads (.field8 .id3 0b00010010) = some .id3
      ∧ reads (.field8 .id10 0b00100000) = some .id10
      ∧ reads (.field8 .button 0b00000101) = some .button
      ∧ reads (.field8 .id0 0b11000010) = none := by decide

/-- Table T6. -/
theorem test_decode_fan :
    reads (.field8 .fan 0xA0) = some .fanAuto
      ∧ reads (.field8 .fan 0x60) = some .fanHigh
      ∧ reads (.field8 .fan 0x40) = some .fanMedium
      ∧ reads (.field8 .fan 0x20) = some .fanLow
      ∧ reads (.field8 .fan 0x00) = some .fanNone
      ∧ reads (.field8 .fan 0x80) = none := by decide

/-- Table T7, and the power codes (R77). -/
theorem test_decode_mode_power :
    reads (.field8 .mode 0x00) = some .modeAuto
      ∧ reads (.field8 .mode 0x20) = some .modeCool
      ∧ reads (.field8 .mode 0x80) = some .modeHeat
      ∧ reads (.field8 .mode 0x40) = some .modeDry
      ∧ reads (.field8 .mode 0xC0) = some .modeFanonly
      ∧ reads (.field8 .mode 0x60) = none
      ∧ reads (.field8 .power 0x20) = some .powerOn
      ∧ reads (.field8 .power 0x00) = some .powerOff
      ∧ reads (.field8 .power 0x40) = none := by decide

/-- The two parts of byte 1 (R76, R78). -/
theorem test_decode_byte1 :
    reads (.field5 0b01000) = some (.temp 8)
      ∧ reads (.field5 0b11111) = some (.temp 31)
      ∧ reads (.field3 0b000) = some .swingOff
      ∧ reads (.field3 0b111) = some .swingVertical
      ∧ reads (.field3 0b011) = none := by decide

/-- Table T8: 8960 = 0x2300, 4485 = 0x1185, 625 = 0x0271, 685 = 0x02AD, 1935 = 0x078F. -/
theorem test_decode_symbols :
    reads (.symbol 0x23001185) = some .hdr
      ∧ reads (.symbol 0x027102AD) = some .zero
      ∧ reads (.symbol 0x0271078F) = some .one
      ∧ reads (.symbol 0x02710000) = some .ftr
      ∧ reads (.symbol 0x02710001) = none := by decide

/-- The words of the table, by their bits alone. -/
theorem test_decodeTableWord :
    decodeTableWord 32 0x00000004 = some (.pdec 0)
      ∧ decodeTableWord 104 0x000020000000000000122000C3
        = some (.frame 0 0 0x00 0x00 0x00 0x00 0x00 0x00 0x00 0x00)
      ∧ decodeTableWord 104 0x000520000000000000122000C3
        = some (.frameEncoded 0 0 0x00 0x00 0x00 0x00)
      ∧ decodeTableWord 8 0xC3 = some .id0
      ∧ decodeTableWord 16 0x0420 = some .id10
      ∧ decodeTableWord 32 0x23001185 = some .hdr := by decide +kernel

/-! ## Running: the vectors of spec/95_test_vectors.md -/

/-- V1. -/
theorem test_fenc_v1 : frameAfter (.fenc 0) cool24 Frame.zero = some v1 := by decide +kernel

/-- V14 (7 degrees wraps to field 31), V10 (fan 5 leaves byte 4 at 0), V8 (a mode with power off). -/
theorem test_fenc_corners :
    frameAfter (.fenc 0) ⟨1, 1, 0, 0, 7⟩ v1
        = some ⟨0xC3, 0xF8, 0x20, 0x12, 0xA0, 0x00, 0x20, 0x00, 0x00, 0x20, 0x20, 0x05, 0xF2⟩
      ∧ frameAfter (.fenc 0) ⟨1, 1, 5, 0, 20⟩ v1
        = some ⟨0xC3, 0x60, 0x20, 0x12, 0x00, 0x00, 0x20, 0x00, 0x00, 0x20, 0x20, 0x05, 0xBA⟩
      ∧ frameAfter (.fenc 0) ⟨0, 1, 3, 1, 18⟩ v1
        = some ⟨0xC3, 0x57, 0x20, 0x12, 0x60, 0x00, 0x00, 0x00, 0x00, 0x00, 0x20, 0x05, 0xD1⟩ := by
  decide +kernel

/-- V16, V17 (power off keeps fan, swing and temperature), V19, V20, V21 (unmapped codes keep prev). -/
theorem test_fdec_ok :
    endsWith (.fdec 0) prev v1 = some (.ok, cool24)
      ∧ endsWith (.fdec 0) prev
        ⟨0xC3, 0x80, 0x20, 0x12, 0xA0, 0x00, 0x00, 0x00, 0x00, 0x00, 0x20, 0x05, 0x3A⟩
        = some (.ok, ⟨0, 5, 3, 1, 30⟩)
      ∧ endsWith (.fdec 0) prev
        ⟨0xC3, 0x83, 0x20, 0x12, 0xA0, 0x00, 0x20, 0x00, 0x00, 0x20, 0x20, 0x05, 0x7D⟩
        = some (.ok, ⟨1, 1, 0, 1, 24⟩)
      ∧ endsWith (.fdec 0) prev
        ⟨0xC3, 0x80, 0x20, 0x12, 0x00, 0x00, 0x20, 0x00, 0x00, 0x20, 0x20, 0x05, 0xDA⟩
        = some (.ok, ⟨1, 1, 3, 0, 24⟩)
      ∧ endsWith (.fdec 0) prev
        ⟨0xC3, 0x80, 0x20, 0x12, 0xA0, 0x00, 0x60, 0x00, 0x00, 0x20, 0x20, 0x05, 0xBA⟩
        = some (.ok, ⟨1, 2, 0, 0, 24⟩) := by decide +kernel

/-- V22 (static before checksum), V24, V28 (39 degrees), V30c (mode Off kept while power turns on). -/
theorem test_fdec_corners :
    endsWith (.fdec 0) prev
        ⟨0xC2, 0x80, 0x20, 0x12, 0xA0, 0x00, 0x20, 0x00, 0x00, 0x20, 0x20, 0x05, 0x7A⟩
        = some (.staticMismatch, prev)
      ∧ endsWith (.fdec 0) prev
        ⟨0xC3, 0x80, 0x20, 0x12, 0xA0, 0x00, 0x20, 0x00, 0x00, 0x20, 0x20, 0x05, 0x7B⟩
        = some (.checksumMismatch, prev)
      ∧ endsWith (.fdec 0) prev
        ⟨0xC3, 0xFF, 0x20, 0x12, 0xA0, 0x00, 0x20, 0x00, 0x00, 0x20, 0x20, 0x05, 0xF9⟩
        = some (.ok, ⟨1, 1, 0, 1, 39⟩)
      ∧ endsWith (.fdec 0) ⟨0, 5, 1, 0, 20⟩
        ⟨0xC3, 0x80, 0x20, 0x12, 0xA0, 0x00, 0x10, 0x00, 0x00, 0x20, 0x20, 0x05, 0x6A⟩
        = some (.ok, ⟨1, 5, 0, 0, 24⟩) := by decide +kernel

/-- V30: the header and byte 0, then bytes 11 and 12 and the footer. -/
theorem test_penc_v30 :
    (after (exec (.penc 0) (at' prev v1))).map (fun t => t.txlog.map fun e =>
        ((e.train.take 9).map (·.space), e.train.drop 89))
      = some [([4485, 1935, 1935, 685, 685, 685, 685, 1935, 1935],
        [⟨625, 1935⟩, ⟨625, 685⟩, ⟨625, 1935⟩, ⟨625, 685⟩, ⟨625, 685⟩, ⟨625, 685⟩, ⟨625, 685⟩,
          ⟨625, 685⟩, ⟨625, 685⟩, ⟨625, 1935⟩, ⟨625, 685⟩, ⟨625, 1935⟩, ⟨625, 1935⟩, ⟨625, 1935⟩,
          ⟨625, 1935⟩, ⟨625, 685⟩, ⟨625, 0⟩])] := by decide +kernel

/-- V30: one event at 38000 Hz with 106 symbols. -/
theorem test_penc_shape :
    (after (exec (.penc 0) (at' prev v1))).map (fun t => t.txlog.map fun e => (e.hz, e.train.length))
      = some [(38000, 106)] := by decide +kernel

/-- V30 by XMIT: 175310 microseconds, STATUS 0x8. -/
theorem test_xmit_v30 :
    (after (exec (.xmit 0) (at' cool24 Frame.zero))).map (fun t =>
        (t.frame, t.status, t.txlog.map fun e => (e.train.map fun y => y.mark + y.space).sum))
      = some (v1, 0x8, [175310]) := by decide +kernel

/-- V31: 190 queries, cursor at 106. -/
theorem test_pdec_v31 :
    pdecOf (pulseEncode v1) = some (.ok, 0, cool24, 106, 190) := by decide +kernel

/-- V33: data bit 37 fits neither pair; V35: no footer; V37: nothing at all; V38: 50 data symbols. -/
theorem test_pdec_failures :
    (pdecOf ((pulseEncode v1).set 38 ⟨625, 1200⟩)).map (fun r => (r.1, r.2.1, r.2.2.1))
        = some (.bitMismatch, 37, prev)
      ∧ (pdecOf ((pulseEncode v1).take 105)).map (fun r => (r.1, r.2.1)) = some (.footerMismatch, 0)
      ∧ pdecOf [] = some (.headerMismatch, 0, prev, 0, 1)
      ∧ (pdecOf ((pulseEncode v1).take 51)).map (fun r => (r.1, r.2.1)) = some (.bitMismatch, 50) := by
  decide +kernel

/-- V50, V51: STATUS 0xF, ERRPOS 0, nothing else. -/
theorem test_reserved0 :
    (after (exec (.reserved0 0) (at' prev v1))).map (fun t => (t.status, t.errpos, t.st, t.frame))
      = some (0xF, 0, prev, v1) := by decide

theorem test_reserved67 :
    (after (exec (.reserved67 0 1) (at' prev v1))).map (fun t => (t.status, t.errpos, t.st, t.frame))
      = some (0xF, 0, prev, v1) := by decide

/-- LDFRAME of V26's frame. -/
theorem test_frame_v26 :
    frameAfter (.frame 0 16 0xA0 0x11 0x20 0x22 0x33 0x20 0x05 0xE0) prev Frame.zero
      = some ⟨0xC3, 0x80, 0x20, 0x12, 0xA0, 0x11, 0x20, 0x22, 0x33, 0x20, 0x20, 0x05, 0xE0⟩ := by
  decide

/-- LDFRAME of V2's frame. -/
theorem test_frameEncoded_v2 :
    frameAfter (.frameEncoded 7 22 0x60 0x80 0x20 0xD1) prev Frame.zero
      = some ⟨0xC3, 0xB7, 0x20, 0x12, 0x60, 0x00, 0x80, 0x00, 0x00, 0x20, 0x20, 0x05, 0xD1⟩ := by
  decide

/-- S2: byte 1 is 0xB0 for 30 degrees with swing Off and 0xB7 with swing Vertical; S1: 0x40. -/
theorem test_temp_swing :
    (frameAfter (.temp 22) prev Frame.zero).map (·.b1) = some 0xB0
      ∧ (frameAfter .swingVertical prev { Frame.zero with b1 := 0xB0 }).map (·.b1) = some 0xB7
      ∧ (frameAfter .swingOff prev { Frame.zero with b1 := 0x47 }).map (·.b1) = some 0x40
      ∧ (frameAfter (.temp 8) prev { Frame.zero with b1 := 0xFF }).map (·.b1) = some 0x47 := by decide

/-- The codes of S10, each at the byte table T5 gives it. -/
theorem test_field_bytes :
    (frameAfter .id0 prev Frame.zero).map (·.b0) = some 0xC3
      ∧ (frameAfter .id2 prev Frame.zero).map (·.b2) = some 0x20
      ∧ (frameAfter .id3 prev Frame.zero).map (·.b3) = some 0x12
      ∧ (frameAfter .id10 prev Frame.zero).map (·.b10) = some 0x20
      ∧ (frameAfter .button prev Frame.zero).map (·.b11) = some 0x05
      ∧ (frameAfter .powerOn prev Frame.zero).map (·.b9) = some 0x20
      ∧ (frameAfter .powerOff prev v1).map (·.b9) = some 0x00 := by decide

theorem test_fan_bytes :
    (frameAfter .fanAuto prev Frame.zero).map (·.b4) = some 0xA0
      ∧ (frameAfter .fanHigh prev Frame.zero).map (·.b4) = some 0x60
      ∧ (frameAfter .fanMedium prev Frame.zero).map (·.b4) = some 0x40
      ∧ (frameAfter .fanLow prev Frame.zero).map (·.b4) = some 0x20
      ∧ (frameAfter .fanNone prev v1).map (·.b4) = some 0x00 := by decide

theorem test_mode_bytes :
    (frameAfter .modeAuto prev v1).map (·.b6) = some 0x00
      ∧ (frameAfter .modeCool prev Frame.zero).map (·.b6) = some 0x20
      ∧ (frameAfter .modeHeat prev Frame.zero).map (·.b6) = some 0x80
      ∧ (frameAfter .modeDry prev Frame.zero).map (·.b6) = some 0x40
      ∧ (frameAfter .modeFanonly prev Frame.zero).map (·.b6) = some 0xC0 := by decide

/-- The four symbols of S9 reach the end of the capture. -/
theorem test_symbols :
    ([Instr.hdr, .zero, .one, .ftr].map fun i => (after (exec i (heard [⟨1, 2⟩]))).map (·.rx.capture))
      = [some [⟨1, 2⟩, ⟨8960, 4485⟩], some [⟨1, 2⟩, ⟨625, 685⟩], some [⟨1, 2⟩, ⟨625, 1935⟩],
        some [⟨1, 2⟩, ⟨625, 0⟩]] := by decide

/-! ## The host's accesses -/

/-- V53, V54, V55: values truncated to the register's width; V56: STATUS ignores a write. -/
theorem test_writes :
    (after (step (next' (at' prev v1) (.wr 0x08 0x58)))).map (·.st.temp) = some 24
      ∧ (after (step (next' (at' prev v1) (.wr 0x05 0x0D)))).map (·.st.mode) = some 5
      ∧ (after (step (next' (at' prev v1) (.wr 0x13 0x1FF)))).map (·.frame.b3) = some 0xFF
      ∧ after (step (next' (at' prev v1) (.wr 0x01 0xFFFFFFFF))) = some (at' prev v1) := by decide

/-- V57, V58, and the widths of table T4. -/
theorem test_reads :
    readOf (at' prev v1) 0x00 = some [(0x00, 0)]
      ∧ readOf (at' prev v1) 0x01 = some [(0x01, 0)]
      ∧ readOf { at' prev v1 with result := .checksumMismatch, done := true } 0x01 = some [(0x01, 0xD)]
      ∧ readOf (at' prev v1) 0x08 = some [(0x08, 30)]
      ∧ readOf (at' prev v1) 0x1C = some [(0x1C, 0x7A)] := by decide

/-- V52: `WR CMD, 0x09` runs FENC. -/
theorem test_step_fenc :
    (after (step (next' (at' cool24 Frame.zero) (.wr 0x00 0x09)))).map (·.frame) = some v1 := by
  decide +kernel

/-- R45: the borders of the holes of table T4. -/
theorem test_unmapped :
    ([0x03, 0x09, 0x0F, 0x1D].map fun i => refusal (step (next' (at' prev v1) (.rd i))))
        = [some (.unmappedIndex 0x03), some (.unmappedIndex 0x09), some (.unmappedIndex 0x0F),
          some (.unmappedIndex 0x1D)]
      ∧ ([0x02, 0x04, 0x08, 0x10, 0x1C].map fun i => refusal (step (next' (at' prev v1) (.wr i 0))))
        = [none, none, none, none, none] := by decide

/-- A row placed at reset is the next thing to run. -/
theorem test_withFetchWord :
    step (State.reset.withFetchWord 32 0x00000001) = exec (.fenc 0) State.reset
      ∧ step (State.reset.withFetchWord 32 0x02710000) = exec .ftr State.reset
      ∧ step (State.reset.withFetchWord 8 0xA0) = exec .fanAuto State.reset
      ∧ step (State.reset.withFetchWord 16 0x0805) = exec .button State.reset := ⟨rfl, rfl, rfl, rfl⟩

/-! ## Witnesses: for every statement with hypotheses, a state and operands that meet them all -/

/-- A state met in mid use: the train of V1 sent, then a PDEC that found bit 37 wrong. -/
def used : State :=
  { at' prev v1 with
    result := .bitMismatch, done := true, errpos := 37, txlog := [⟨38000, pulseEncode v1⟩],
    rxlog := [⟨.item 8960 4485, true⟩, ⟨.item 625 1935, true⟩] }

theorem used_inv : used.Inv where
  fresh := by decide
  errpos_zero h := absurd rfl h
  errpos_lt := by decide
  tx e he := by
    obtain rfl : e = ⟨38000, pulseEncode v1⟩ := by simpa [used] using he
    exact ⟨rfl, v1, rfl⟩
  rx := by decide

/-- R31: the receiver's cursor is not reset by the IRFC; R37: RESULT and ERRPOS are. -/
theorem test_reset_keeps_receiver :
    (after (step (next' { used with rx := ⟨[⟨625, 0⟩], 1, .reference .exact⟩ } .reset))).map
        (fun t => (t.rx, t.result, t.done, t.errpos))
      = some (⟨[⟨625, 0⟩], 1, .reference .exact⟩, .ok, false, 0) := by decide

/-- A step answers a next state from `s` with the access `a`. -/
def Steps (s : State) (a : Access) : Prop := ∃ t, step (next' s a) = .next t

theorem witness_StepKeepsTheInvariant :
    (next' used (.wr 0x00 2)).Inv ∧ Steps used (.wr 0x00 2) :=
  ⟨⟨used_inv.fresh, used_inv.errpos_zero, used_inv.errpos_lt, used_inv.tx, used_inv.rx⟩, _, rfl⟩

theorem witness_StepRunsTheDecodedInstruction :
    ((next' used (.wr 0x00 9)).script = accessOf (.cmd 9) :: [] ∧ decode (.cmd 9) = .ok (.fenc 1))
      ∧ ((next' used (.wrfield .fan 0x60)).script = accessOf (.field8 .fan 0x60) :: []
        ∧ decode (.field8 .fan 0x60) = .ok .fanHigh)
      ∧ ((next' used (.wrtemp 31)).script = accessOf (.field5 31) :: []
        ∧ decode (.field5 31) = .ok (.temp 31))
      ∧ ((next' used (.wrswing 7)).script = accessOf (.field3 7) :: []
        ∧ decode (.field3 7) = .ok .swingVertical)
      ∧ ((next' used (.rxsymbol 0x02710000)).script = accessOf (.symbol 0x02710000) :: []
        ∧ decode (.symbol 0x02710000) = .ok .ftr)
      ∧ (next' used (.ldframe 0x7A05202000002000A0122080C3)).script
        = accessOf (.frame 0x7A05202000002000A0122080C3) :: [] :=
  ⟨⟨rfl, rfl⟩, ⟨rfl, rfl⟩, ⟨rfl, rfl⟩, ⟨rfl, rfl⟩, ⟨rfl, rfl⟩, rfl⟩

theorem witness_StepWithoutAnAccessChangesNothing : used.script = [] := rfl

theorem witness_StepIsRefusedExactlyAtUnmappedIndices :
    (∃ r, step (next' used (.rd 0x03)) = .refused r) ∧ (∃ r, step (next' used (.wr 0x09 1)) = .refused r)
      ∧ (∃ r, step (next' used (.rd 0x0F)) = .refused r) ∧ (∃ r, step (next' used (.rd 0x1D)) = .refused r)
      ∧ ∀ r, step (next' used (.rd 0x1C)) ≠ .refused r :=
  ⟨⟨_, rfl⟩, ⟨_, rfl⟩, ⟨_, rfl⟩, ⟨_, rfl⟩, fun r h => by cases h⟩

theorem witness_RunOfMappedAccessesEnds :
    ∀ a ∈ ({ used with script := [.wr 0x02 0, .rd 0x04, .wr 0x00 6, .rd 0x1C, .wrtemp 3] } : State).script,
      ¬ a.Unmapped := by
  intro a ha
  simp only [List.mem_cons, List.not_mem_nil, or_false] at ha
  rcases ha with rfl | rfl | rfl | rfl | rfl <;> simp [Access.Unmapped, Machine.Unmapped]

theorem witness_ReadAfterWriteReturnsTheTruncatedValue :
    [0x04, 0x05, 0x06, 0x07, 0x08, 0x10, 0x1C].map widthAt
      = [some 1, some 3, some 3, some 1, some 6, some 8, some 8] := by decide

theorem witness_CommandIsSelectedByItsLowThreeBits :
    (0x09#32).toNat % 8 = (0x01#32).toNat % 8 ∧ (0xFFFFFFF8#32).toNat % 8 = (0x00#32).toNat % 8 := by
  decide

theorem witness_OnlyCommandsWriteStatus :
    (next' used (.wr 0x00 5)).script = .wr 0x00 5 :: []
      ∧ Steps used (.wr 0x01 5) ∧ (∀ v rest, (next' used (.wr 0x01 5)).script ≠ .wr 0x00 v :: rest)
      ∧ ∀ rest, (next' used (.wr 0x01 5)).script ≠ .reset :: rest :=
  ⟨rfl, ⟨_, rfl⟩, fun v rest h => by injection h with h _; injection h with h _; exact absurd h (by decide),
    fun rest h => by injection h with h _; cases h⟩

/-- The step changes ST_*. -/
def MovesSt (s : State) (a : Access) : Prop := ∃ t, step (next' s a) = .next t ∧ t.st ≠ s.st

/-- The step changes FRAME. -/
def MovesFrame (s : State) (a : Access) : Prop := ∃ t, step (next' s a) = .next t ∧ t.frame ≠ s.frame

theorem witness_RegistersChangeOnlyByTheirWriters_st :
    MovesSt used (.wr 0x04 0) ∧ MovesSt used (.wr 0x08 0) ∧ MovesSt used (.wr 0x00 2)
      ∧ MovesSt (heard (pulseEncode v1)) (.wr 0x00 4) :=
  ⟨⟨_, rfl, by decide⟩, ⟨_, rfl, by decide⟩, ⟨_, rfl, by decide +kernel⟩, ⟨_, rfl, by decide +kernel⟩⟩

theorem witness_RegistersChangeOnlyByTheirWriters_frame :
    MovesFrame used (.wr 0x10 0) ∧ MovesFrame used (.wr 0x1C 0) ∧ MovesFrame used (.wr 0x00 1)
      ∧ MovesFrame used (.wr 0x00 5)
      ∧ MovesFrame { heard (pulseEncode v1) with frame := Frame.zero } (.wr 0x00 4)
      ∧ MovesFrame used (.ldframe 0) ∧ MovesFrame used (.wrfield .power 0x40)
      ∧ MovesFrame used (.wrtemp 0) ∧ MovesFrame used (.wrswing 3) :=
  ⟨⟨_, rfl, by decide⟩, ⟨_, rfl, by decide⟩, ⟨_, rfl, by decide +kernel⟩, ⟨_, rfl, by decide +kernel⟩,
    ⟨_, rfl, by decide +kernel⟩, ⟨_, rfl, by decide +kernel⟩, ⟨_, rfl, by decide⟩, ⟨_, rfl, by decide⟩,
    ⟨_, rfl, by decide⟩⟩

/-- A PENC, an XMIT, a PDEC and a reset, each with its clause's premise, and an FENC, which meets the last
two. -/
theorem witness_PortHistoriesGrowOnlyByTheirOperations :
    (∃ t, step (next' used (.wr 0x00 3)) = .next t ∧ (3#32).toNat % 8 ∈ [3, 5] ∧ t.txlog.length = 2)
      ∧ (∃ t, step (next' used (.wr 0x00 5)) = .next t ∧ (5#32).toNat % 8 ∈ [3, 5] ∧ t.txlog.length = 2)
      ∧ (∃ t, step (next' used (.wr 0x00 4)) = .next t ∧ (4#32).toNat % 8 ∈ [4] ∧ t.rxlog.length = 3)
      ∧ (∃ t, step (next' used .reset) = .next t ∧ t.txlog ≠ used.txlog ∧ t.rxlog ≠ used.rxlog)
      ∧ Steps used (.wr 0x00 1)
      ∧ ¬ (∃ v rest, (next' used (.wr 0x00 1)).script = .wr 0x00 v :: rest ∧ v.toNat % 8 ∈ [3, 4, 5])
      ∧ ¬ ∃ rest, (next' used (.wr 0x00 1)).script = .reset :: rest := by
  refine ⟨⟨_, rfl, by decide, rfl⟩, ⟨_, rfl, by decide, rfl⟩, ⟨_, rfl, by decide, by decide +kernel⟩,
    ⟨_, rfl, by decide +kernel, by decide +kernel⟩, ⟨_, rfl⟩, ?_, ?_⟩
  · rintro ⟨v, rest, h, hv⟩
    cases h
    revert hv; decide
  · rintro ⟨rest, h⟩
    cases h

theorem witness_ChecksumIsTheUnmaskedSum :
    ((0 : Fin 13) ≠ 12 ∧ (0x00 : Byte) ≠ v1.get 0) ∧ ((11 : Fin 13) ≠ 12 ∧ (0xFF : Byte) ≠ v1.get 11)
      ∧ ((0 : Fin 13) ≠ 11 ∧ (0 : Fin 13) ≠ 12 ∧ (11 : Fin 13) ≠ 12) := by decide

/-- One frame for each of the four identifier bytes. -/
theorem witness_FdecReportsStaticMismatch :
    ∀ i ∈ [0, 2, 3, 10], ¬ Identified (at' prev (v1.set i 0x21)).frame := by
  unfold Identified; decide

theorem v1_wellFormed : IsWellFormed v1 := by unfold IsWellFormed Identified; decide

/-- V24's frame; V22's, which fails both checks; and V1's, with every byte of the clauses changed. -/
theorem witness_FdecChecksTheSumSecond :
    (Identified { v1 with b12 := 0x7B }
        ∧ ({ v1 with b12 := 0x7B } : Frame).b12.toNat ≠ sum12 { v1 with b12 := 0x7B } % 256)
      ∧ (¬ Identified { v1 with b0 := 0xC2 }
        ∧ ({ v1 with b0 := 0xC2 } : Frame).b12.toNat ≠ sum12 { v1 with b0 := 0xC2 } % 256)
      ∧ IsWellFormed v1 ∧ ∀ i ∈ [0, 2, 3, 10, 12], (0xFF : Byte) ≠ v1.get i :=
  ⟨⟨by unfold Identified; decide, by decide⟩, ⟨by unfold Identified; decide, by decide⟩, v1_wellFormed,
    by decide⟩

/-- V6's frame with byte 9 = 0x00, and V18's with byte 9 = 0x40. -/
theorem witness_FdecOfAPowerOffFrame :
    ∀ f ∈ [(⟨0xC3, 0x80, 0x20, 0x12, 0xA0, 0x00, 0x00, 0x00, 0x00, 0x00, 0x20, 0x05, 0x3A⟩ : Frame),
        ⟨0xC3, 0x80, 0x20, 0x12, 0xA0, 0x00, 0x20, 0x00, 0x00, 0x40, 0x20, 0x05, 0x9A⟩],
      IsWellFormed (at' prev f).frame ∧ (at' prev f).frame.b9 ≠ 0x20 := by
  unfold IsWellFormed Identified; decide

/-- V16, V27 (temperature field 0), V28 (field 31, swing 7), V19 (swing 3), V20 (fan 0x00), V21 (mode
0x60). -/
theorem witness_FdecOfAPowerOnFrame :
    ∀ f ∈ [v1, { v1 with b1 := 0x00, b12 := 0xFA }, { v1 with b1 := 0xFF, b12 := 0xF9 },
        { v1 with b1 := 0x83, b12 := 0x7D }, { v1 with b4 := 0x00, b12 := 0xDA },
        { v1 with b6 := 0x60, b12 := 0xBA }],
      IsWellFormed (at' prev f).frame ∧ (at' prev f).frame.b9 = 0x20 := by
  unfold IsWellFormed Identified; decide

/-- V1's and V26's frames. -/
theorem witness_FdecIgnoresBytesItDoesNotInterpret :
    let g : Frame := { v1 with b5 := 0x11, b7 := 0x22, b8 := 0x33, b12 := 0xE0 }
    IsWellFormed v1 ∧ IsWellFormed g ∧ v1.b1 = g.b1 ∧ v1.b4 = g.b4 ∧ v1.b6 = g.b6 ∧ v1.b9 = g.b9 := by
  unfold IsWellFormed Identified; decide

/-- The ends of the ranges: 16 and 30 degrees, modes 0 and 4, fans 0 and 3. -/
theorem roundTrips_ends : ∀ c ∈ [(⟨1, 0, 0, 0, 16⟩ : Snapshot), ⟨1, 4, 3, 1, 30⟩], RoundTrips c := by
  unfold RoundTrips; decide

theorem witness_FrameRoundTrip :
    RoundTrips (at' ⟨1, 0, 0, 0, 16⟩ v1).st ∧ RoundTrips (at' ⟨1, 4, 3, 1, 30⟩ v1).st :=
  ⟨roundTrips_ends _ (by decide), roundTrips_ends _ (by decide)⟩

theorem witness_PowerOffRoundTrip :
    (at' ⟨0, 5, 3, 1, 18⟩ v1).st.power = 0#1 ∧ (at' ⟨0, 5, 3, 1, 18⟩ v1).st.mode = 5#3 := ⟨rfl, rfl⟩

theorem witness_TrainHasTheSymbolsOfTheRules : (0 : Nat) < 8 ∧ (7 : Nat) < 8 := by decide

theorem witness_PulseEncodeIsInjective :
    pulseEncode v1 = pulseEncode (frameEncode cool24) := by decide +kernel

/-- Present and absent, at the reference receiver and at an oracle. -/
theorem witness_ReceiverAnswersAndConsumes :
    (⟨[⟨625, 685⟩], 0, .reference .exact⟩ : Receiver).present (.item 625 685) = true
      ∧ (⟨[⟨625, 685⟩], 0, .reference .exact⟩ : Receiver).present (.item 625 1935) = false
      ∧ (⟨[⟨625, 685⟩], 0, .reference .exact⟩ : Receiver).present (.mark 625) = true
      ∧ (⟨[⟨625, 685⟩], 1, .reference .exact⟩ : Receiver).present (.mark 625) = false
      ∧ (⟨[], 0, .oracle [true]⟩ : Receiver).present (.mark 625) = true
      ∧ (⟨[], 0, .oracle [false, true]⟩ : Receiver).present (.mark 625) = false := by decide

theorem witness_PdecReportsHeaderMismatch :
    (heard []).rx.present (.item 8960 4485) = false
      ∧ (heard [⟨9000, 4500⟩]).rx.present (.item 8960 4485) = false
      ∧ ({ used with rx := ⟨[], 0, .oracle [false]⟩ } : State).rx.present (.item 8960 4485) = false := by
  decide

/-- The first data bit, and the last. -/
theorem witness_PdecReportsBitMismatch :
    (([] : List Bool).length < 104
        ∧ ({ used with rx := ⟨[], 0, .oracle [true, false, false]⟩ } : State).rx
          = ⟨[], 0, .oracle (true :: answersFor [] ++ false :: false :: [])⟩)
      ∧ ((List.replicate 103 true).length < 104
        ∧ ({ used with rx := ⟨[], 0, .oracle (true :: List.replicate 103 true ++ [false, false])⟩ } : State).rx
          = ⟨[], 0, .oracle (true :: answersFor (List.replicate 103 true) ++ false :: false :: [])⟩) := by
  decide +kernel

theorem witness_PdecReportsFooterMismatch :
    (List.replicate 104 true).length = 104
      ∧ ({ used with rx := ⟨[], 0, .oracle (true :: List.replicate 104 true ++ [false])⟩ } : State).rx
        = ⟨[], 0, .oracle (true :: answersFor (List.replicate 104 true) ++ false :: [])⟩ := by
  decide +kernel

/-- The three ends of a whole frame: thirteen 0xFF bytes (V46), V41's frame, V31's. -/
theorem witness_PdecOfAWholeFrame :
    ({ used with rx := ⟨[], 0, .oracle (true :: List.replicate 104 true ++ [true])⟩ } : State).rx
        = ⟨[], 0, .oracle (true :: answersFor ((List.range 104).map
            (dataBit ⟨0xFF, 0xFF, 0xFF, 0xFF, 0xFF, 0xFF, 0xFF, 0xFF, 0xFF, 0xFF, 0xFF, 0xFF, 0xFF⟩))
          ++ true :: [])⟩
      ∧ ¬ Identified ⟨0xFF, 0xFF, 0xFF, 0xFF, 0xFF, 0xFF, 0xFF, 0xFF, 0xFF, 0xFF, 0xFF, 0xFF, 0xFF⟩
      ∧ Identified { v1 with b12 := 0x7B }
      ∧ ({ v1 with b12 := 0x7B } : Frame).b12.toNat ≠ sum12 { v1 with b12 := 0x7B } % 256
      ∧ IsWellFormed v1 :=
  ⟨by decide +kernel, by unfold Identified; decide, by unfold Identified; decide, by decide,
    v1_wellFormed⟩

/-- Every PDEC answers a next state: the empty capture and V31's. -/
theorem witness_PdecFollowsTheAnswersAlone :
    (∃ t, exec (.pdec 0) (heard []) = .next t ∧ t.rxlog.length = 1)
      ∧ ∃ t, exec (.pdec 0) (heard (pulseEncode v1)) = .next t ∧ t.rxlog.length = 190 :=
  ⟨⟨_, rfl, by decide +kernel⟩, ⟨_, rfl, by decide +kernel⟩⟩

/-- The shortest query sequence and the longest (V37, V45). -/
theorem witness_PdecQueriesHaveTheirShape :
    (∃ t, exec (.pdec 0) (heard []) = .next t ∧ t.rxlog.length = 1)
      ∧ ∃ t, exec (.pdec 0) (heard (pulseEncode Frame.zero)) = .next t ∧ t.rxlog.length = 210 :=
  ⟨⟨_, rfl, by decide +kernel⟩, ⟨_, rfl, by decide +kernel⟩⟩

theorem exact_refl : MatchRule.exact.Refl := by unfold MatchRule.Refl; decide

theorem exact_disjoint : MatchRule.exact.Disjoint := by
  rintro o ⟨h, h'⟩
  simp only [MatchRule.holds, beq_iff_eq] at h h'
  omega

/-- Exact equality meets both hypotheses; a train with a symbol after it; the end of the ranges. -/
theorem witness_PulseRoundTrip :
    MatchRule.exact.Refl ∧ MatchRule.exact.Disjoint
      ∧ (heard (pulseEncode v1 ++ [⟨1, 2⟩])).rx.Holds (pulseEncode v1 ++ [⟨1, 2⟩]) .exact
      ∧ RoundTrips (at' ⟨1, 4, 3, 1, 30⟩ v1).st :=
  ⟨exact_refl, exact_disjoint, ⟨rfl, rfl⟩, witness_FrameRoundTrip.2⟩

theorem witness_ShortAndLongCaptures : (0 : Nat) < 104 ∧ (103 : Nat) < 104 := by decide

/-- The instruction ends in a failure from `s`. -/
def Fails (i : Instr) (s : State) : Prop :=
  isCommand i = true ∧ ∃ t, exec i s = .next t ∧ t.result ≠ .ok

theorem witness_FdecSucceedsExactlyOnWellFormedFrames :
    IsWellFormed (at' prev v1).frame ∧ ¬ IsWellFormed (at' prev Frame.zero).frame :=
  ⟨v1_wellFormed, by unfold IsWellFormed Identified; decide⟩

theorem witness_ReservedCommandIsIllegal :
    (0x00000008#32).toNat % 8 = 0 ∧ (0x00000006#32).toNat % 8 = 6 ∧ (0xFFFFFFFF#32).toNat % 8 = 7 := by
  decide

theorem witness_FailedOperationKeepsTheSnapshot :
    Fails (.fdec 0) (at' prev Frame.zero) ∧ Fails (.pdec 0) (heard [])
      ∧ Fails (.reserved0 0) used ∧ Fails (.reserved67 0 1) used
      ∧ ∃ t, exec (.pdec 0) (heard [⟨8960, 4485⟩]) = .next t ∧ t.result = .bitMismatch :=
  ⟨⟨rfl, _, rfl, by decide +kernel⟩, ⟨rfl, _, rfl, by decide +kernel⟩, ⟨rfl, _, rfl, by decide⟩,
    ⟨rfl, _, rfl, by decide⟩, ⟨_, rfl, by decide +kernel⟩⟩

theorem witness_EachOperationReportsOnlyItsFailures :
    (∃ t, exec (.fenc 0) used = .next t) ∧ (∃ t, exec (.penc 0) used = .next t)
      ∧ (∃ t, exec (.xmit 0) used = .next t) ∧ (∃ t, exec (.fdec 0) used = .next t)
      ∧ (∃ t, exec (.pdec 0) used = .next t) ∧ (∃ t, exec (.reserved0 0) used = .next t)
      ∧ ∃ t, exec (.reserved67 0 0) used = .next t :=
  ⟨⟨_, rfl⟩, ⟨_, rfl⟩, ⟨_, rfl⟩, ⟨_, rfl⟩, ⟨_, rfl⟩, ⟨_, rfl⟩, ⟨_, rfl⟩⟩

theorem witness_FrameRowLoadsItsWord :
    encode (.frameEncoded 0 16 0xA0 0x20 0x20 0x7A) = .frame 0x7A05202000002000A0122080C3
      ∧ encode (.frame 0 16 0xA0 0x11 0x20 0x22 0x33 0x20 0x05 0xE0)
        = .frame 0xE005202033222011A0122080C3 := by decide +kernel

theorem witness_FieldRowWritesItsBits :
    fieldRow .id0 = some (0, 0, 8, 0xC3) ∧ fieldRow (.temp 0) = some (1, 3, 5, 0)
      ∧ fieldRow (.temp 31) = some (1, 3, 5, 31) ∧ fieldRow .swingVertical = some (1, 0, 3, 7)
      ∧ fieldRow .button = some (11, 0, 8, 5) := by decide

theorem witness_SymbolRowReachesTheReceiver :
    symbolRow .hdr = some (8960, 4485) ∧ symbolRow .zero = some (625, 685)
      ∧ symbolRow .one = some (625, 1935) ∧ symbolRow .ftr = some (625, 0) := by decide

theorem witness_FieldRowsSpellTheEncodedFrame : RoundTrips ⟨1, 0, 0, 0, 16⟩ ∧ RoundTrips ⟨1, 4, 3, 1, 30⟩ :=
  witness_FrameRoundTrip

theorem witness_DecodeOfEncode :
    (Instr.frameEncoded 7 31 0x00 0xC0 0x00 0xFF).wellFormed = true
      ∧ (Instr.frame 3 31 0xFF 0xFF 0xFF 0xFF 0xFF 0xFF 0xFF 0xFF).wellFormed = true
      ∧ (Instr.reserved67 0x1FFFFFFF 1).wellFormed = true ∧ (Instr.temp 31).wellFormed = true := by decide

theorem witness_EncodeOfDecode :
    decode (.cmd 0xFFFFFFFF) = .ok (.reserved67 0x1FFFFFFF 1)
      ∧ decode (.field8 .power 0x20) = .ok .powerOn ∧ decode (.symbol 0x02710000) = .ok .ftr
      ∧ reads (.frame 0xE005202033222011A0122080C3)
        = some (.frame 0 16 0xA0 0x11 0x20 0x22 0x33 0x20 0x05 0xE0) :=
  ⟨rfl, rfl, rfl, by decide +kernel⟩

end Sys2Proof.Tests
end

section
/-! PROOFS. One line of a script, said once: a line that carries a table word ends in the same host write
(or the same symbol at the receiver) whether or not the word is a row of the table; a CMD write runs the
operation its low three bits select; and `AccessEffect` lists everything a line can do. -/

namespace Sys2Proof.Machine

open Sys2Proof.Claims

/-! ## Lines that carry a table word -/

/-- A frame row loads the frame of the word it was decoded from. -/
theorem exec_of_decodeFrame {w : BitVec 104} {i : Instr} (h : decodeFrame w = .ok i) (s : State) :
    exec i s = .next (s.setFrame (Frame.ofWord w)) := by
  unfold decodeFrame at h
  generalize Frame.ofWord w = f at h ⊢
  obtain ⟨b0, b1, b2, b3, b4, b5, b6, b7, b8, b9, b10, b11, b12⟩ := f
  simp only [Frame.idsMatch, Bool.and_eq_true, beq_iff_eq] at h
  split_ifs at h with hid henc
  · obtain ⟨⟨⟨rfl, rfl⟩, rfl⟩, rfl⟩ := hid
    obtain ⟨rfl, rfl, rfl, rfl, -⟩ := henc
    cases h
    simp [exec, execFrameEncoded]
  · obtain ⟨⟨⟨rfl, rfl⟩, rfl⟩, rfl⟩ := hid
    cases h
    simp [exec, execFrame]

/-- A whole-byte field row writes the code it was decoded from. -/
theorem exec_of_decodeField8 {p : BytePlace} {c : Byte} {i : Instr} (h : decodeField8 p c = .ok i)
    (s : State) : exec i s = .next (s.writeField p c) := by
  cases p
  all_goals
    simp only [decodeField8] at h
    split_ifs at h <;> cases h
    all_goals subst_vars; rfl

/-- A swing row writes the code it was decoded from. -/
theorem exec_of_decodeField3 {c : BitVec 3} {i : Instr} (h : decodeField3 c = .ok i) (s : State) :
    exec i s = .next (s.writeSwing c) := by
  simp only [decodeField3] at h
  split_ifs at h <;> cases h
  all_goals subst_vars; rfl

/-- A symbol row hands over the symbol it was decoded from. -/
theorem exec_of_decodeSymbol {w : BitVec 32} {i : Instr} (h : decodeSymbol w = .ok i) (s : State) :
    exec i s = .next (s.receive (Symbol.ofWord w)) := by
  simp only [decodeSymbol] at h
  split_ifs at h <;> cases h
  all_goals subst_vars; rfl

theorem perform_ldframe (w : BitVec 104) (s : State) :
    perform (.ldframe w) s = .next (s.setFrame (Frame.ofWord w)) := by
  cases h : decodeFrame w with
  | ok i => simp only [perform, h, exec_of_decodeFrame h]
  | error e => simp only [perform, h, State.ldframe_eq]

theorem perform_wrfield (p : BytePlace) (c : Byte) (s : State) :
    perform (.wrfield p c) s = .next (s.writeField p c) := by
  cases h : decodeField8 p c with
  | ok i => simp only [perform, h, exec_of_decodeField8 h]
  | error e => simp only [perform, h]

theorem perform_wrtemp (c : BitVec 5) (s : State) :
    perform (.wrtemp c) s = .next (s.writeTemp c) := rfl

theorem perform_wrswing (c : BitVec 3) (s : State) :
    perform (.wrswing c) s = .next (s.writeSwing c) := by
  cases h : decodeField3 c with
  | ok i => simp only [perform, h, exec_of_decodeField3 h]
  | error e => simp only [perform, h]

theorem perform_rxsymbol (w : BitVec 32) (s : State) :
    perform (.rxsymbol w) s = .next (s.receive (Symbol.ofWord w)) := by
  cases h : decodeSymbol w with
  | ok i => simp only [perform, h, exec_of_decodeSymbol h]
  | error e => simp only [perform, h]

/-! ## CMD writes -/

/-- The decoder reads a CMD value as table T9 does: the code is the value modulo 8 (R80, R81). -/
theorem decodeCmd_eq_selected (v : BitVec 32) : decodeCmd v = selected v := by
  have hign : v.extractLsb' 3 29 = BitVec.ofNat 29 (v.toNat / 8) := by
    apply BitVec.eq_of_toNat_eq; simp [Nat.shiftRight_eq_div_pow]
  have hcode : v.extractLsb' 0 3 = BitVec.ofNat 3 (v.toNat % 8) := by
    apply BitVec.eq_of_toNat_eq; simp
  have hlt : v.toNat % 8 < 8 := Nat.mod_lt _ (by decide)
  simp only [decodeCmd, selected, hign, hcode]
  generalize v.toNat % 8 = n at hlt ⊢
  interval_cases n <;> rfl

/-- The state after the operation of command code `code` (table T9); every other code is reserved. -/
def State.command (s : State) (code : Nat) : State :=
  match code with
  | 1 => s.fenc
  | 2 => s.settle (frameDecode s.frame s.st)
  | 3 => s.penc
  | 4 => (s.hear (scan s.line).2).endScan (scan s.line).1
  | 5 => s.fenc.penc
  | _ => s.raise .illegalCommand 0#7

theorem exec_selected (v : BitVec 32) (s : State) :
    exec (selected v) s = .next (s.command (v.toNat % 8)) := by
  have hlt : v.toNat % 8 < 8 := Nat.mod_lt _ (by decide)
  unfold selected
  generalize v.toNat % 8 = n at hlt ⊢
  interval_cases n <;> rfl

theorem perform_wr_cmd (v : BitVec 32) (s : State) :
    perform (.wr 0x00 v) s = .next (s.command (v.toNat % 8)) := by
  rw [← exec_selected, ← decodeCmd_eq_selected]
  rfl

/-! ## Everything a line can do -/

/-- The lines that write FRAME as the host's own writes do. -/
def Access.WritesFrame : Access → Prop
  | .wr idx _ => 0x10 ≤ idx ∧ idx ≤ 0x1C
  | .ldframe _ | .wrfield _ _ | .wrtemp _ | .wrswing _ => True
  | .rd _ | .rxsymbol _ | .rxload _ _ | .reset => False

/-- What a line does in every state: the one component it replaces, by a function of that component. -/
inductive AccessEffect (a : Access) : Prop where
  | command (v : BitVec 32) (ha : a = .wr 0x00 v)
      (heq : ∀ s, perform a s = .next (s.command (v.toNat % 8)))
  | reset (ha : a = .reset) (heq : ∀ s, perform a s = .next s.restart)
  | setsSt (idx : Nat) (v : BitVec 32) (ha : a = .wr idx v) (hidx : 0x04 ≤ idx ∧ idx ≤ 0x08)
      (g : Snapshot → Snapshot) (heq : ∀ s, perform a s = .next (s.setSt (g s.st)))
  | setsFrame (ha : a.WritesFrame) (g : Frame → Frame)
      (heq : ∀ s, perform a s = .next (s.setFrame (g s.frame)))
  | setsReceiver (g : Receiver → Receiver) (heq : ∀ s, perform a s = .next { s with rx := g s.rx })
  | reads (idx : Nat) (r : Reg) (heq : ∀ s, perform a s = .next (s.logRead idx (s.readReg r)))
  | ignored (heq : ∀ s, perform a s = .next s)
  | refused (r : Refusal) (heq : ∀ s, perform a s = .refused r)

/-- Table T4: the five ST_* registers stand at 0x04 to 0x08. -/
theorem regAt_st {idx : Nat} {r : Reg} (h : regAt idx = some r)
    (hr : r ∈ [.stPower, .stMode, .stFan, .stSwing, .stTemp]) : 0x04 ≤ idx ∧ idx ≤ 0x08 := by
  unfold regAt at h
  split_ifs at h <;> cases h <;> simp_all

/-- Table T4: FRAME stands at 0x10 to 0x1C. -/
theorem regAt_frame_range {idx : Nat} {i : Fin 13} (h : regAt idx = some (.frame i)) :
    0x10 ≤ idx ∧ idx ≤ 0x1C := by
  unfold regAt at h
  split_ifs at h <;> cases h
  assumption

/-- A host write of any register but CMD (R43). -/
theorem perform_wr_reg {idx : Nat} {r : Reg} (h : regAt idx = some r) (hr : r ≠ .cmd)
    (v : BitVec 32) (s : State) : perform (.wr idx v) s = .next (s.writeReg r v) := by
  cases r with
  | cmd => exact absurd rfl hr
  | _ => simp only [perform, h]

theorem accessEffect_wr (idx : Nat) (v : BitVec 32) : AccessEffect (.wr idx v) := by
  cases h : regAt idx with
  | none => exact .refused (.unmappedIndex idx) fun s => by simp only [perform, h]
  | some r =>
    have hwr := perform_wr_reg h (v := v)
    have setsSt hr := AccessEffect.setsSt idx v rfl (regAt_st h hr)
    cases r with
    | cmd =>
      obtain rfl := regAt_cmd h
      exact .command v rfl (perform_wr_cmd v)
    | status | errpos => exact .ignored (hwr nofun)
    | stPower => exact setsSt (by simp) (fun c => { c with power := v.setWidth 1 }) (hwr nofun)
    | stMode => exact setsSt (by simp) (fun c => { c with mode := v.setWidth 3 }) (hwr nofun)
    | stFan => exact setsSt (by simp) (fun c => { c with fan := v.setWidth 3 }) (hwr nofun)
    | stSwing => exact setsSt (by simp) (fun c => { c with swing := v.setWidth 1 }) (hwr nofun)
    | stTemp => exact setsSt (by simp) (fun c => { c with temp := v.setWidth 6 }) (hwr nofun)
    | frame i =>
      exact .setsFrame (regAt_frame_range h) (fun f => f.set i (v.setWidth 8)) (hwr nofun)

theorem accessEffect (a : Access) : AccessEffect a := by
  cases a with
  | rd idx =>
    cases h : regAt idx with
    | none => exact .refused (.unmappedIndex idx) fun s => by simp only [perform, h]
    | some r => exact .reads idx r fun s => by simp only [perform, h]
  | wr idx v => exact accessEffect_wr idx v
  | ldframe w => exact .setsFrame trivial (fun _ => Frame.ofWord w) (perform_ldframe w)
  | wrfield p c => exact .setsFrame trivial (fun f => f.set (placeIndex p) c) (perform_wrfield p c)
  | wrtemp c =>
    exact .setsFrame trivial (fun f => f.set 1 (byte1 c (swingBits f.b1))) (perform_wrtemp c)
  | wrswing c =>
    exact .setsFrame trivial (fun f => f.set 1 (byte1 (tempBits f.b1) c)) (perform_wrswing c)
  | rxsymbol w =>
    exact .setsReceiver (fun r => { r with capture := r.capture ++ [Symbol.ofWord w] })
      (perform_rxsymbol w)
  | rxload c ans => exact .setsReceiver (fun _ => ⟨c, 0, ans⟩) fun _ => rfl
  | reset => exact .reset rfl fun _ => rfl

/-! ## One step -/

theorem step_nil {s : State} (h : s.script = []) : step s = .next s := by
  simp only [step, State.advance, h]

theorem step_cons {s : State} {a : Access} {rest : List Access} (h : s.script = a :: rest) :
    step s = perform a (s.setScript rest) := by
  simp only [step, State.advance, h]

end Sys2Proof.Machine
end

section
/-! PROOFS. What a PDEC's scan can come to, said once, and what it adds to RXLOG; then what a command does
to STATUS, to the registers and to the port histories. -/

namespace Sys2Proof.Machine

/-! ## The scan -/

@[simp] theorem Line.ask_log (l : Line) (q : RxQuery) :
    (l.ask q).log = l.log ++ [⟨q, l.answer q⟩] := rfl

/-- The four ways a scan ends (R141 to R144), each with the answers that lead there. -/
inductive ScanRun (l : Line) : Prop where
  | headerMismatch (hh : l.answer queryHeader = false)
      (heq : scan l = (.headerMismatch, l.ask queryHeader))
  | bitMismatch (bs : List Bool) (l' : Line) (hh : l.answer queryHeader = true)
      (hr : Reads (l.ask queryHeader) bs l') (hlen : bs.length < 104)
      (h1 : l'.answer queryOne = false) (h0 : (l'.ask queryOne).answer queryZero = false)
      (heq : scan l = (.bitMismatch bs.length, (l'.ask queryOne).ask queryZero))
  | footerMismatch (bs : List Bool) (l' : Line) (hh : l.answer queryHeader = true)
      (hr : Reads (l.ask queryHeader) bs l') (hlen : bs.length = 104)
      (hf : l'.answer queryFooter = false) (heq : scan l = (.footerMismatch, l'.ask queryFooter))
  | read (bs : List Bool) (l' : Line) (hh : l.answer queryHeader = true)
      (hr : Reads (l.ask queryHeader) bs l') (hlen : bs.length = 104)
      (hf : l'.answer queryFooter = true)
      (heq : scan l = (.read (setBits 0 bs Frame.zero), l'.ask queryFooter))

theorem scanRun (l : Line) : ScanRun l := by
  cases hh : l.answer queryHeader with
  | false => exact .headerMismatch hh (by simp [scan, hh])
  | true =>
    obtain ⟨bs, l', hr, ⟨hlen, hscan⟩ | ⟨hlen, h1, h0, hscan⟩⟩ :=
      scanBits_cases CFG.dataBits 0 Frame.zero (l.ask queryHeader)
    · cases hf : l'.answer queryFooter with
      | true => exact .read bs l' hh hr hlen hf (by simp [scan, hh, hscan, hf])
      | false => exact .footerMismatch bs l' hh hr hlen hf (by simp [scan, hh, hscan, hf])
    · exact .bitMismatch bs l' hh hr hlen h1 h0 (by simp [scan, hh, hscan])

/-- A bit mismatch names one of the 104 data bits (R19, R142). -/
theorem scan_bitMismatch_lt {l : Line} {k : Nat} (h : (scan l).1 = .bitMismatch k) : k < 104 := by
  cases scanRun l with
  | bitMismatch bs l' _ _ hlen _ _ heq =>
    rw [heq] at h
    cases h
    exact hlen
  | headerMismatch _ heq | footerMismatch _ _ _ _ _ _ heq | read _ _ _ _ _ _ heq =>
    rw [heq] at h
    cases h

/-- The header query is the first entry a scan adds to RXLOG (R141). -/
theorem scan_log_header (l : Line) :
    ∃ es, (scan l).2.log = l.log ++ ⟨queryHeader, l.answer queryHeader⟩ :: es := by
  cases scanRun l with
  | headerMismatch _ heq => exact ⟨[], by simp [heq]⟩
  | bitMismatch bs l' _ hr _ _ _ heq
  | footerMismatch bs l' _ hr _ _ heq
  | read bs l' _ hr _ _ heq => simp [heq, hr.log]

theorem query_of_mem_readEvents {e : RxEvent} {bs : List Bool} (h : e ∈ readEvents bs) :
    e.query = queryOne ∨ e.query = queryZero := by
  induction bs with
  | nil => cases h
  | cons b bs ih =>
    cases b <;> simp only [readEvents, List.mem_cons] at h
    · obtain rfl | rfl | h := h
      exacts [.inl rfl, .inr rfl, ih h]
    · obtain rfl | h := h
      exacts [.inl rfl, ih h]

/-- A scan adds no query to RXLOG but the four nominal ones (R147). -/
theorem query_of_mem_scan_log {l : Line} {e : RxEvent} (h : e ∈ (scan l).2.log) :
    e ∈ l.log ∨ e.query ∈ [queryHeader, queryOne, queryZero, queryFooter] := by
  cases scanRun l with
  | headerMismatch _ heq =>
    simp only [heq, Line.ask_log, List.mem_append, List.mem_singleton] at h
    grind [query_of_mem_readEvents]
  | bitMismatch bs l' _ hr _ _ _ heq
  | footerMismatch bs l' _ hr _ _ heq
  | read bs l' _ hr _ _ heq =>
    simp only [heq, Line.ask_log, hr.log, List.mem_append, List.mem_singleton] at h
    grind [query_of_mem_readEvents]

/-! ## The port histories -/

/-- The state with other port histories. -/
def State.withLogs (s : State) (tx : List TxEvent) (rx : List RxEvent) : State :=
  { s with txlog := tx, rxlog := rx }

/-- The events a command appends to TXLOG: PENC the train of FRAME, XMIT that of the encoded snapshot. -/
def State.sent (s : State) (code : Nat) : List TxEvent :=
  match code with
  | 3 => [⟨CFG.carrierHz, pulseEncode s.frame⟩]
  | 5 => [⟨CFG.carrierHz, pulseEncode (frameEncode s.st)⟩]
  | _ => []

/-- The entries a command appends to RXLOG: those of PDEC's scan. -/
def State.asked (s : State) (code : Nat) : List RxEvent :=
  match code with
  | 4 => (scan ⟨s.rx, []⟩).2.log
  | _ => []

theorem State.settle_withLogs (s : State) (tx : List TxEvent) (rx : List RxEvent) (d : Decoded) :
    (s.withLogs tx rx).settle d = (s.settle d).withLogs tx rx := by
  cases d <;> rfl

theorem State.endScan_withLogs (s : State) (tx : List TxEvent) (rx : List RxEvent) (o : Scan) :
    (s.withLogs tx rx).endScan o = (s.endScan o).withLogs tx rx := by
  cases o with
  | read f => exact State.settle_withLogs (s.setFrame f) tx rx _
  | _ => rfl

/-- A command reads neither history: on any histories it does the same, and appends the same (R30). -/
theorem State.command_withLogs (s : State) (code : Nat) (tx : List TxEvent) (rx : List RxEvent) :
    (s.withLogs tx rx).command code =
      (s.command code).withLogs (tx ++ s.sent code) (rx ++ s.asked code) := by
  unfold State.command
  split <;> simp only [State.sent, State.asked, List.append_nil]
  case h_2 => exact s.settle_withLogs tx rx _
  case h_4 =>
    obtain ⟨o, r', es, h⟩ := scan_log s.rx
    have hs : scan s.line = (o, ⟨r', s.rxlog ++ es⟩) := h s.rxlog
    have hw : scan (s.withLogs tx rx).line = (o, ⟨r', rx ++ es⟩) := h rx
    rw [hs, hw, h []]
    exact (s.hear ⟨r', s.rxlog ++ es⟩).endScan_withLogs tx (rx ++ es) o
  all_goals rfl

@[simp] theorem State.command_txlog (s : State) (code : Nat) :
    (s.command code).txlog = s.txlog ++ s.sent code :=
  congrArg State.txlog (s.command_withLogs code s.txlog s.rxlog)

@[simp] theorem State.command_rxlog (s : State) (code : Nat) :
    (s.command code).rxlog = s.rxlog ++ s.asked code :=
  congrArg State.rxlog (s.command_withLogs code s.txlog s.rxlog)

/-- Every train sent is the train of some frame, at 38 kHz (R130, R136). -/
theorem State.train_of_mem_sent {s : State} {code : Nat} {e : TxEvent} (h : e ∈ s.sent code) :
    e.hz = 38000 ∧ ∃ f, e.train = pulseEncode f := by
  unfold State.sent at h
  split at h
  · obtain rfl := List.mem_singleton.mp h
    exact ⟨rfl, _, rfl⟩
  · obtain rfl := List.mem_singleton.mp h
    exact ⟨rfl, _, rfl⟩
  · cases h

/-- Every query put is one of the four nominal ones (R147). -/
theorem State.query_of_mem_asked {s : State} {code : Nat} {e : RxEvent} (h : e ∈ s.asked code) :
    e.query ∈ [queryHeader, queryOne, queryZero, queryFooter] := by
  unfold State.asked at h
  split at h
  · exact (query_of_mem_scan_log h).resolve_left List.not_mem_nil
  · cases h

/-- PENC and XMIT send one event (R130, R138). -/
theorem State.sent_singleton (s : State) {code : Nat} (h : code ∈ [3, 5]) :
    ∃ e, s.sent code = [e] := by
  obtain rfl | rfl : code = 3 ∨ code = 5 := by simpa using h
  all_goals exact ⟨_, rfl⟩

theorem State.sent_nil (s : State) {code : Nat} (h : code ∉ [3, 5]) : s.sent code = [] := by
  unfold State.sent
  split <;> simp_all

/-- PDEC asks at least its header query (R140). -/
theorem State.asked_cons (s : State) : ∃ q qs, s.asked 4 = q :: qs :=
  let ⟨es, h⟩ := scan_log_header ⟨s.rx, []⟩
  ⟨_, es, h⟩

theorem State.asked_nil (s : State) {code : Nat} (h : code ≠ 4) : s.asked code = [] := by
  unfold State.asked
  split <;> simp_all

/-! ## STATUS and ERRPOS -/

/-- The state with another STATUS and ERRPOS. -/
def State.withStatus (s : State) (r : Result) (d : Bool) (e : BitVec 7) : State :=
  { s with result := r, done := d, errpos := e }

theorem State.settle_withStatus (s : State) (r : Result) (d : Bool) (e : BitVec 7) (o : Decoded) :
    (s.withStatus r d e).settle o = s.settle o := by
  cases o <;> rfl

theorem State.endScan_withStatus (s : State) (r : Result) (d : Bool) (e : BitVec 7) (o : Scan) :
    (s.withStatus r d e).endScan o = s.endScan o := by
  cases o with
  | read f => exact (s.setFrame f).settle_withStatus r d e _
  | _ => rfl

/-- A command overwrites RESULT, DONE and ERRPOS without reading them (R16). -/
theorem State.command_withStatus (s : State) (code : Nat) (r : Result) (d : Bool) (e : BitVec 7) :
    (s.withStatus r d e).command code = s.command code := by
  unfold State.command
  split
  case h_2 => exact s.settle_withStatus r d e _
  case h_4 => exact (s.hear _).endScan_withStatus r d e _
  all_goals rfl

@[simp] theorem State.command_done (s : State) (code : Nat) : (s.command code).done = true := by
  unfold State.command
  split
  case h_2 => exact State.settle_done ..
  case h_4 => exact State.endScan_done ..
  all_goals rfl

/-- ERRPOS after a scan: a data bit index, and 0 for every result but BitMismatch (R19). -/
theorem State.endScan_errpos (s : State) (l : Line) :
    ((s.endScan (scan l).1).result ≠ .bitMismatch → (s.endScan (scan l).1).errpos = 0#7) ∧
      (s.endScan (scan l).1).errpos.toNat < 104 := by
  cases h : (scan l).1 with
  | bitMismatch k =>
    have hk := scan_bitMismatch_lt h
    refine ⟨fun hne => absurd rfl hne, ?_⟩
    simp only [State.endScan, State.raise_eq, State.finish_errpos, BitVec.toNat_ofNat]
    omega
  | _ => simp [State.endScan]

/-- ERRPOS after a command: a data bit index, and 0 for every result but BitMismatch (R19). -/
theorem State.command_errpos (s : State) (code : Nat) :
    ((s.command code).result ≠ .bitMismatch → (s.command code).errpos = 0#7) ∧
      (s.command code).errpos.toNat < 104 := by
  unfold State.command
  split
  case h_4 => exact State.endScan_errpos ..
  all_goals simp [State.fenc, State.penc]

/-! ## ST_* and FRAME -/

/-- A scan that does not end Ok leaves the snapshot (R144, R170). -/
theorem State.endScan_st (s : State) (o : Scan) (h : (s.endScan o).result ≠ .ok) :
    (s.endScan o).st = s.st := by
  cases o with
  | read f => exact (s.setFrame f).settle_st _ h
  | _ => rfl

/-- Only FDEC and PDEC, ending Ok, write ST_* (R110, R144). -/
theorem State.command_st_ne (s : State) (code : Nat) (h : (s.command code).st ≠ s.st) :
    (code = 2 ∨ code = 4) ∧ (s.command code).result = .ok := by
  unfold State.command at h ⊢
  split at h
  case h_2 => exact ⟨.inl rfl, not_imp_comm.mp (s.settle_st _) h⟩
  case h_4 => exact ⟨.inr rfl, not_imp_comm.mp ((s.hear _).endScan_st _) h⟩
  all_goals exact absurd rfl h

/-- Only FENC, PDEC and XMIT write FRAME (R100, R138, R145). -/
theorem State.command_frame_ne (s : State) (code : Nat) (h : (s.command code).frame ≠ s.frame) :
    code = 1 ∨ code = 4 ∨ code = 5 := by
  unfold State.command at h
  split at h
  case h_2 => exact absurd (State.settle_frame ..) h
  case h_1 | h_4 | h_5 => simp
  all_goals exact absurd rfl h

end Sys2Proof.Machine
end

section
/-! PROOFS. The statements about the state: the invariant of every step, the selection by CMD, what writes
STATUS, the registers and the port histories, and reset. Each splits a step into the script's next line
and that line into its `AccessEffect`. -/

namespace Sys2Proof.Machine

open Sys2Proof.Claims

/-! ## One step -/

/-- A step answers the same state when the script is empty, and what its next line does otherwise. -/
theorem step_cases {s t : State} (h : step s = .next t) :
    (s.script = [] ∧ t = s) ∨
      ∃ a rest, s.script = a :: rest ∧ perform a (s.setScript rest) = .next t := by
  cases hs : s.script with
  | nil =>
    rw [step_nil hs] at h
    cases h
    exact .inl ⟨rfl, rfl⟩
  | cons a rest => exact .inr ⟨a, rest, rfl, step_cons hs ▸ h⟩

theorem step_wr_cmd {s : State} {v : BitVec 32} {rest : List Access}
    (h : s.script = .wr 0x00 v :: rest) :
    step s = .next ((s.setScript rest).command (v.toNat % 8)) := by
  rw [step_cons h, perform_wr_cmd]

theorem step_reset {s : State} {rest : List Access} (h : s.script = .reset :: rest) :
    step s = .next (s.setScript rest).restart :=
  step_cons h

/-- `t` has the STATUS, the ERRPOS and the port histories of `s`. -/
structure Quiet (s t : State) : Prop where
  result : t.result = s.result
  done   : t.done = s.done
  errpos : t.errpos = s.errpos
  txlog  : t.txlog = s.txlog
  rxlog  : t.rxlog = s.rxlog

/-- Only commands and resets write STATUS, ERRPOS and the port histories. -/
theorem step_quiet_cases {s t : State} (h : step s = .next t) :
    (∃ v rest, s.script = .wr 0x00 v :: rest ∧ t = (s.setScript rest).command (v.toNat % 8)) ∨
      (∃ rest, s.script = .reset :: rest ∧ t = (s.setScript rest).restart) ∨ Quiet s t := by
  obtain ⟨-, rfl⟩ | ⟨a, rest, hs, hp⟩ := step_cases h
  · exact .inr (.inr ⟨rfl, rfl, rfl, rfl, rfl⟩)
  cases accessEffect a with
  | command v ha heq =>
    subst ha
    cases (heq _).symm.trans hp
    exact .inl ⟨v, rest, hs, rfl⟩
  | reset ha heq =>
    subst ha
    cases (heq _).symm.trans hp
    exact .inr (.inl ⟨rest, hs, rfl⟩)
  | refused r heq => cases (heq _).symm.trans hp
  | setsSt _ _ _ _ g heq | setsFrame _ g heq | setsReceiver g heq | reads _ _ heq | ignored heq =>
    cases (heq _).symm.trans hp
    exact .inr (.inr ⟨rfl, rfl, rfl, rfl, rfl⟩)

/-! ## The invariant -/

theorem State.Inv.of_quiet {s t : State} (h : s.Inv) (q : Quiet s t) : t.Inv where
  fresh := by rw [q.done, q.result]; exact h.fresh
  errpos_zero := by rw [q.result, q.errpos]; exact h.errpos_zero
  errpos_lt := by rw [q.errpos]; exact h.errpos_lt
  tx := by rw [q.txlog]; exact h.tx
  rx := by rw [q.rxlog]; exact h.rx

/-- Settles O2: before the first command RESULT and ERRPOS are 0 and both histories are empty. -/
theorem resetMeetsTheInvariant : Obligations.ResetMeetsTheInvariant where
  fresh _ := rfl
  errpos_zero _ := rfl
  errpos_lt := show (0#7).toNat < 104 by decide
  tx := nofun
  rx := nofun

/-- A reset establishes the invariant, from any state. -/
theorem State.restart_inv (s : State) : s.restart.Inv :=
  State.Inv.of_quiet resetMeetsTheInvariant ⟨rfl, rfl, rfl, rfl, rfl⟩

theorem State.Inv.command {s : State} (h : s.Inv) (code : Nat) : (s.command code).Inv where
  fresh hd := absurd hd (by simp)
  errpos_zero := (s.command_errpos code).1
  errpos_lt := (s.command_errpos code).2
  tx e he := by
    rw [State.command_txlog, List.mem_append] at he
    exact he.elim (h.tx e) State.train_of_mem_sent
  rx e he := by
    rw [State.command_rxlog, List.mem_append] at he
    exact he.elim (h.rx e) State.query_of_mem_asked

/-- Settles O3: a command writes ERRPOS within its bounds and appends trains and nominal queries, a reset
clears all of it, and every other step leaves it. -/
theorem stepKeepsTheInvariant : Obligations.StepKeepsTheInvariant := by
  intro s t hinv hstep
  obtain ⟨v, rest, -, rfl⟩ | ⟨rest, -, rfl⟩ | q := step_quiet_cases hstep
  · exact (hinv.of_quiet (t := s.setScript rest) ⟨rfl, rfl, rfl, rfl, rfl⟩).command _
  · exact State.restart_inv _
  · exact hinv.of_quiet q

/-! ## CMD and STATUS -/

/-- Settles O11: the step on a CMD write is the command of the value modulo 8. -/
theorem commandIsSelectedByItsLowThreeBits : Obligations.CommandIsSelectedByItsLowThreeBits := by
  intro s v rest
  refine ⟨?_, fun v' hv => ?_, rfl⟩
  · rw [step_wr_cmd rfl, exec_selected]
    rfl
  · rw [step_wr_cmd rfl, step_wr_cmd rfl, hv]
    rfl

/-- Settles O12: a command sets DONE and reads neither STATUS nor ERRPOS; every other step but a reset is
quiet. -/
theorem onlyCommandsWriteStatus : Obligations.OnlyCommandsWriteStatus := by
  refine ⟨fun s v rest hs => ?_, fun s t hstep hcmd hreset => ?_, fun s rest => ⟨_, rfl⟩⟩
  · refine ⟨_, step_wr_cmd hs, State.command_done .., fun r d e => ?_⟩
    refine ⟨_, step_wr_cmd (s := s.withStatus r d e) hs, ?_⟩
    have hcommand : ((s.withStatus r d e).setScript rest).command (v.toNat % 8) =
        (s.setScript rest).command (v.toNat % 8) :=
      (s.setScript rest).command_withStatus _ r d e
    rw [hcommand]
    exact ⟨rfl, rfl, rfl⟩
  · obtain ⟨v, rest, hs, -⟩ | ⟨rest, hs, -⟩ | q := step_quiet_cases hstep
    · exact absurd hs (hcmd v rest)
    · exact absurd hs (hreset rest)
    · exact ⟨q.result, q.done, q.errpos⟩

/-! ## The registers -/

/-- What a change of ST_* says of the line. -/
theorem perform_st_ne {a : Access} {s t : State} (hp : perform a s = .next t) (h : t.st ≠ s.st) :
    (∃ idx v, a = .wr idx v ∧ 0x04 ≤ idx ∧ idx ≤ 0x08) ∨
      (∃ v, a = .wr 0x00 v ∧ (v.toNat % 8 = 2 ∨ v.toNat % 8 = 4) ∧ t.result = .ok) ∨
      a = .reset := by
  cases accessEffect a with
  | command v ha heq =>
    cases (heq s).symm.trans hp
    exact .inr (.inl ⟨v, ha, s.command_st_ne _ h⟩)
  | reset ha _ => exact .inr (.inr ha)
  | setsSt idx v ha hidx _ _ => exact .inl ⟨idx, v, ha, hidx⟩
  | refused r heq => cases (heq s).symm.trans hp
  | setsFrame _ g heq | setsReceiver g heq | reads _ _ heq | ignored heq =>
    cases (heq s).symm.trans hp
    exact absurd rfl h

/-- What a change of FRAME says of the line. -/
theorem perform_frame_ne {a : Access} {s t : State} (hp : perform a s = .next t)
    (h : t.frame ≠ s.frame) :
    a.WritesFrame ∨
      (∃ v, a = .wr 0x00 v ∧ (v.toNat % 8 = 1 ∨ v.toNat % 8 = 4 ∨ v.toNat % 8 = 5)) ∨
      a = .reset := by
  cases accessEffect a with
  | command v ha heq =>
    cases (heq s).symm.trans hp
    exact .inr (.inl ⟨v, ha, s.command_frame_ne _ h⟩)
  | reset ha _ => exact .inr (.inr ha)
  | setsFrame ha _ _ => exact .inl ha
  | refused r heq => cases (heq s).symm.trans hp
  | setsSt _ _ _ _ g heq | setsReceiver g heq | reads _ _ heq | ignored heq =>
    cases (heq s).symm.trans hp
    exact absurd rfl h

/-- Settles O13: the line at the head of the script is one of the register's writers. -/
theorem registersChangeOnlyByTheirWriters : Obligations.RegistersChangeOnlyByTheirWriters := by
  intro s t hstep
  obtain ⟨-, rfl⟩ | ⟨a, rest, hs, hp⟩ := step_cases hstep
  · exact ⟨absurd rfl, absurd rfl⟩
  rw [hs]
  refine ⟨fun h => ?_, fun h => ?_⟩
  · obtain ⟨idx, v, rfl, hidx⟩ | ⟨v, rfl, hv⟩ | rfl := perform_st_ne hp h
    · exact .inl ⟨idx, v, rest, rfl, hidx⟩
    · exact .inr (.inl ⟨v, rest, rfl, hv⟩)
    · exact .inr (.inr ⟨rest, rfl⟩)
  · obtain ha | ⟨v, rfl, hv⟩ | rfl := perform_frame_ne hp h
    · cases a with
      | wr idx v => exact .inl ⟨idx, v, rest, rfl, ha⟩
      | ldframe w => exact .inr (.inr (.inl ⟨w, rest, rfl⟩))
      | wrfield p c => exact .inr (.inr (.inr (.inl ⟨p, c, rest, rfl⟩)))
      | wrtemp c => exact .inr (.inr (.inr (.inr (.inl ⟨c, rest, rfl⟩))))
      | wrswing c => exact .inr (.inr (.inr (.inr (.inr (.inl ⟨c, rest, rfl⟩)))))
      | rd _ | rxsymbol _ | rxload _ _ | reset => exact ha.elim
    · exact .inr (.inl ⟨v, rest, rfl, hv⟩)
    · exact .inr (.inr (.inr (.inr (.inr (.inr ⟨rest, rfl⟩)))))

/-! ## The port histories -/

/-- No line reads a history: on any histories it does the same to everything else. -/
theorem perform_withLogs {a : Access} {s t : State} (hp : perform a s = .next t)
    (tx : List TxEvent) (rx : List RxEvent) :
    ∃ tx' rx', perform a (s.withLogs tx rx) = .next (t.withLogs tx' rx') := by
  cases accessEffect a with
  | command v _ heq =>
    cases (heq s).symm.trans hp
    exact ⟨_, _, by rw [heq, State.command_withLogs]⟩
  | reset _ heq =>
    cases (heq s).symm.trans hp
    exact ⟨[], [], heq _⟩
  | refused r heq => cases (heq s).symm.trans hp
  | setsSt _ _ _ _ g heq | setsFrame _ g heq | setsReceiver g heq | reads _ _ heq | ignored heq =>
    cases (heq s).symm.trans hp
    exact ⟨tx, rx, heq _⟩

theorem step_withLogs {s t : State} (h : step s = .next t) (tx : List TxEvent) (rx : List RxEvent) :
    ∃ tx' rx', step (s.withLogs tx rx) = .next (t.withLogs tx' rx') := by
  obtain ⟨hs, rfl⟩ | ⟨a, rest, hs, hp⟩ := step_cases h
  · exact ⟨tx, rx, step_nil hs⟩
  · rw [step_cons (s := s.withLogs tx rx) hs]
    exact perform_withLogs hp tx rx

/-- Settles O14: a command appends what it sends and asks, a reset empties both histories, every other step
is quiet, and no step reads them. -/
theorem portHistoriesGrowOnlyByTheirOperations :
    Obligations.PortHistoriesGrowOnlyByTheirOperations := by
  intro s t hstep
  refine ⟨?_, ?_, ?_, fun hw hr => ?_, fun hw hr => ?_, fun tx rx => ?_⟩
  · rintro ⟨v, rest, hs, hv⟩
    cases (step_wr_cmd hs).symm.trans hstep
    obtain ⟨e, he⟩ := (s.setScript rest).sent_singleton hv
    exact ⟨e, by rw [State.command_txlog, he]; rfl⟩
  · rintro ⟨v, rest, hs, hv⟩
    cases (step_wr_cmd hs).symm.trans hstep
    obtain ⟨q, qs, hq⟩ := (s.setScript rest).asked_cons
    exact ⟨q, qs, by rw [State.command_rxlog, List.mem_singleton.mp hv, hq]; rfl⟩
  · rintro ⟨rest, hs⟩
    cases (step_reset hs).symm.trans hstep
    exact ⟨rfl, rfl⟩
  · obtain ⟨v, rest, hs, rfl⟩ | ⟨rest, hs, -⟩ | q := step_quiet_cases hstep
    · rw [State.command_txlog, State.sent_nil _ fun hv => hw ⟨v, rest, hs, hv⟩]
      exact List.append_nil _
    · exact absurd ⟨rest, hs⟩ hr
    · exact q.txlog
  · obtain ⟨v, rest, hs, rfl⟩ | ⟨rest, hs, -⟩ | q := step_quiet_cases hstep
    · rw [State.command_rxlog,
        State.asked_nil _ fun hv => hw ⟨v, rest, hs, List.mem_singleton.mpr hv⟩]
      exact List.append_nil _
    · exact absurd ⟨rest, hs⟩ hr
    · exact q.rxlog
  · obtain ⟨tx', rx', h⟩ := step_withLogs hstep tx rx
    exact ⟨_, h, rfl, rfl, rfl, rfl, rfl, rfl, rfl, rfl⟩

/-! ## Reset -/

theorem State.reset_readReg_status : State.reset.readReg .status = 0#32 := by decide

/-- Settles O1: CMD, STATUS and ERRPOS of the reset state read 0, and `restart` clears what R37 names. -/
theorem resetLeavesStatusErrposAndHistoriesClear :
    Obligations.ResetLeavesStatusErrposAndHistoriesClear := by
  refine ⟨fun idx hidx rest => ?_, rfl, rfl, fun s rest => ?_⟩
  · interval_cases idx
    · exact ⟨_, rfl, rfl⟩
    · exact ⟨_, rfl, congrArg (fun w => [(1, w)]) State.reset_readReg_status⟩
    · exact ⟨_, rfl, rfl⟩
  · exact ⟨_, step_reset rfl, rfl, rfl, rfl, rfl, rfl, rfl, rfl, rfl⟩

end Sys2Proof.Machine
end

section
/-! PROOFS. The statements about the host's accesses: which row a step runs and when it is refused, what a
read returns and what a write stores. -/

namespace Sys2Proof.Machine

open Sys2Proof.Claims

/-! ## Which row a step runs, and when it is refused -/

/-- Settles O5: an empty script leaves no line to perform. -/
theorem stepWithoutAnAccessChangesNothing : Obligations.StepWithoutAnAccessChangesNothing :=
  fun _ => step_nil

/-- The line that hands over a table word runs the row the word decodes to (R44, R86). -/
theorem perform_accessOf {w : TableWord} {i : Instr} (h : decode w = .ok i) (s : State) :
    perform (accessOf w) s = exec i s := by
  cases w with
  | cmd v | field5 c =>
    cases h
    rfl
  | frame w | field8 p c | field3 c | symbol w =>
    simp only [decode] at h
    simp only [accessOf, perform, h]

/-- Settles O4: the script's head is the line that hands the word over. -/
theorem stepRunsTheDecodedInstruction : Obligations.StepRunsTheDecodedInstruction :=
  fun s _ _ rest hs hw => (step_cons hs).trans (perform_accessOf hw (s.setScript rest))

/-- A line is refused exactly where it reads or writes an unmapped index (R45). -/
theorem perform_refused_iff (a : Access) (s : State) :
    (∃ r, perform a s = .refused r) ↔
      ∃ idx, regAt idx = none ∧ (a = .rd idx ∨ ∃ v, a = .wr idx v) := by
  constructor
  · rintro ⟨r, hr⟩
    obtain ⟨t, ht⟩ | ⟨idx, hidx, ha, -⟩ := perform_cases a s
    · rw [ht] at hr
      cases hr
    · exact ⟨idx, hidx, ha⟩
  · rintro ⟨idx, hidx, rfl | ⟨v, rfl⟩⟩
    all_goals exact ⟨.unmappedIndex idx, by simp only [perform, hidx]⟩

/-- A step is refused, or it answers a next state. -/
theorem step_refused_or_next (s : State) : (∃ r, step s = .refused r) ∨ ∃ t, step s = .next t := by
  cases hs : s.script with
  | nil => exact .inr ⟨s, step_nil hs⟩
  | cons a rest =>
    rw [step_cons hs]
    obtain ⟨t, ht⟩ | ⟨idx, -, -, hr⟩ := perform_cases a (s.setScript rest)
    exacts [.inr ⟨t, ht⟩, .inl ⟨_, hr⟩]

/-- Settles O6: an empty script is a step, and a line is refused where no register stands. -/
theorem stepIsRefusedExactlyAtUnmappedIndices : Obligations.StepIsRefusedExactlyAtUnmappedIndices := by
  refine fun s => ⟨?_, fun h => (step_refused_or_next s).resolve_left (not_exists.mpr h)⟩
  simp only [← regAt_none_iff]
  cases hs : s.script with
  | nil => simp [step_nil hs]
  | cons a rest =>
    rw [step_cons hs, perform_refused_iff]
    constructor
    · rintro ⟨idx, hidx, rfl | ⟨v, rfl⟩⟩
      exacts [⟨idx, rest, .inl rfl, hidx⟩, ⟨idx, rest, .inr ⟨v, rfl⟩, hidx⟩]
    · rintro ⟨idx, _, h | ⟨v, h⟩, hidx⟩ <;> cases h
      exacts [⟨idx, hidx, .inl rfl⟩, ⟨idx, hidx, .inr ⟨v, rfl⟩⟩]

/-! ## Reads and writes -/

theorem step_rd {s : State} {idx : Nat} {r : Reg} {rest : List Access}
    (hs : s.script = .rd idx :: rest) (hr : regAt idx = some r) :
    step s = .next ((s.setScript rest).logRead idx (s.readReg r)) := by
  rw [step_cons hs]
  simp only [perform, hr]
  rfl

theorem step_wr_reg {s : State} {idx : Nat} {r : Reg} {v : BitVec 32} {rest : List Access}
    (hs : s.script = .wr idx v :: rest) (hr : regAt idx = some r) (hcmd : r ≠ .cmd) :
    step s = .next ((s.setScript rest).writeReg r v) := by
  rw [step_cons hs, perform_wr_reg hr hcmd]

/-- STATUS reads as 8 DONE + RESULT (R15). -/
theorem State.readReg_status (s : State) :
    s.readReg .status = BitVec.ofNat 32 ((if s.done then 8 else 0) + resultCode s.result) := by
  simp only [State.readReg, State.status]
  cases s.done <;> cases s.result <;> rfl

/-- Settles O8: a step reads the register at the index, and the widened register is its number. -/
theorem hostReadReturnsTheRegister : Obligations.HostReadReturnsTheRegister := by
  intro s rest returns
  have returns_readReg {idx v : Nat} (r : Reg) (hr : regAt idx = some r)
      (hv : BitVec.ofNat 32 v = s.readReg r) : returns idx v := by
    simp only [returns, hv]
    exact step_rd (s := { s with script := .rd idx :: rest }) rfl hr
  exact ⟨returns_readReg .cmd rfl rfl,
    returns_readReg .status rfl s.readReg_status.symm,
    returns_readReg .errpos rfl (BitVec.ofNat_toNat ..),
    returns_readReg .stPower rfl (BitVec.ofNat_toNat ..),
    returns_readReg .stMode rfl (BitVec.ofNat_toNat ..),
    returns_readReg .stFan rfl (BitVec.ofNat_toNat ..),
    returns_readReg .stSwing rfl (BitVec.ofNat_toNat ..),
    returns_readReg .stTemp rfl (BitVec.ofNat_toNat ..),
    fun i => returns_readReg (.frame i) (regAt_frame i) (BitVec.ofNat_toNat ..)⟩

/-- Truncation to `w` bits is the value modulo `2 ^ w` (R43). -/
theorem setWidth_eq_ofNat_mod (w : Nat) (v : BitVec 32) :
    v.setWidth w = BitVec.ofNat w (v.toNat % 2 ^ w) :=
  BitVec.eq_of_toNat_eq (by simp)

@[simp] theorem State.writeReg_script (s : State) (r : Reg) (v : BitVec 32) :
    (s.writeReg r v).script = s.script := by
  cases r <;> rfl

@[simp] theorem State.writeReg_readLog (s : State) (r : Reg) (v : BitVec 32) :
    (s.writeReg r v).readLog = s.readLog := by
  cases r <;> rfl

/-- Settles O9: a step writes the register at the index, and truncation is reduction modulo `2 ^ w`. -/
theorem hostWriteStoresTheTruncatedValue : Obligations.HostWriteStoresTheTruncatedValue := by
  intro s v rest leaves
  have leaves_writeReg {idx : Nat} (r : Reg) (hr : regAt idx = some r) (hcmd : r ≠ .cmd) {t : State}
      (ht : ∀ script, ({ s with script } : State).writeReg r v = { t with script }) :
      leaves idx t := by
    simp only [leaves, ← ht]
    exact step_wr_reg rfl hr hcmd
  refine ⟨leaves_writeReg .status rfl nofun fun _ => rfl,
    leaves_writeReg .errpos rfl nofun fun _ => rfl,
    leaves_writeReg .stPower rfl nofun fun _ => ?_,
    leaves_writeReg .stMode rfl nofun fun _ => ?_,
    leaves_writeReg .stFan rfl nofun fun _ => ?_,
    leaves_writeReg .stSwing rfl nofun fun _ => ?_,
    leaves_writeReg .stTemp rfl nofun fun _ => ?_,
    fun i => leaves_writeReg (.frame i) (regAt_frame i) nofun fun _ => ?_,
    (commandIsSelectedByItsLowThreeBits s v rest).1⟩
  all_goals
    simp only [State.writeReg, setWidth_eq_ofNat_mod]
    rfl

/-- The width of a read-write register (table T4). -/
def Reg.storedWidth : Reg → Option Nat
  | .cmd | .status | .errpos => none
  | .stPower | .stSwing => some 1
  | .stMode | .stFan => some 3
  | .stTemp => some 6
  | .frame _ => some 8

/-- The read-write indices of table T4 are those of the registers that store what is written. -/
theorem widthAt_eq_storedWidth (idx : Nat) : widthAt idx = (regAt idx).bind Reg.storedWidth := by
  unfold widthAt regAt
  split_ifs <;> simp [Reg.storedWidth] <;> omega

/-- A register holds what was written to it, modulo `2 ^ w` (R42, R43). -/
theorem State.readReg_writeReg {r : Reg} {w : Nat} (hw : r.storedWidth = some w) (s : State)
    (v : BitVec 32) : (s.writeReg r v).readReg r = BitVec.ofNat 32 (v.toNat % 2 ^ w) := by
  have truncated (k : Nat) : (v.setWidth k).setWidth 32 = BitVec.ofNat 32 (v.toNat % 2 ^ k) := by
    rw [← BitVec.toNat_setWidth, BitVec.ofNat_toNat]
  cases r with
  | cmd | status | errpos => cases hw
  | stPower | stMode | stFan | stSwing | stTemp =>
    cases hw
    exact truncated _
  | frame i =>
    cases hw
    rw [← truncated, State.writeReg, State.readReg, State.setByte_eq, State.setFrame_frame,
      Frame.get_set, if_pos rfl]

/-- Settles O10: the write puts the value in the register the read finds at the same index. -/
theorem readAfterWriteReturnsTheTruncatedValue : Obligations.ReadAfterWriteReturnsTheTruncatedValue := by
  intro s idx w v rest hidx
  rw [widthAt_eq_storedWidth] at hidx
  obtain ⟨r, hr, hw⟩ := Option.bind_eq_some_iff.mp hidx
  have hcmd : r ≠ .cmd := by
    rintro rfl
    cases hw
  refine ⟨_, _, step_wr_reg rfl hr hcmd, step_rd (State.writeReg_script ..) hr, ?_⟩
  simp [State.readReg_writeReg hw]

end Sys2Proof.Machine
end

section
/-! PROOFS. The statements about the RX port: what a receiver answers, and that a PDEC depends on the
receiver through its answers alone. -/

namespace Sys2Proof.Machine

open Sys2Proof.Claims

/-! ## The receiver -/

/-- The reference receiver's answer: the symbol at its cursor, if any, is compared (R59). -/
theorem Receiver.present_reference_iff (c : List Symbol) (n : Nat) (m : MatchRule) (q : RxQuery) :
    (⟨c, n, .reference m⟩ : Receiver).present q = true ↔
      ∃ y, (c)[n]? = some y ∧ q.fits m y = true := by
  cases h : (c)[n]? <;> simp [Receiver.present, h]

/-- Settles O31: each clause is the answer or the cursor of one kind of receiver. -/
theorem receiverAnswersAndConsumes : Obligations.ReceiverAnswersAndConsumes := by
  refine ⟨fun r q => ⟨rfl, fun h => ?_, fun h => ?_⟩,
    fun cap n m a b => ⟨?_, ?_, fun q h => ?_, fun q h => ?_⟩,
    fun cap n a rest q => ⟨rfl, rfl, rfl, rfl⟩⟩
  · simp [Receiver.after_cursor, h]
  · simp [Receiver.after_cursor, h]
  · simp [Receiver.present_reference_iff, RxQuery.fits]
  · simp [Receiver.present_reference_iff, RxQuery.fits]
  · simp [Receiver.after_reference (r := ⟨cap, n, .reference m⟩) rfl, h]
  · simp [Receiver.after_reference (r := ⟨cap, n, .reference m⟩) rfl, h]

/-! ## PDEC follows the answers -/

/-- The scan of a port whose answers spell fewer than 104 bits and then match neither pair (R142). -/
theorem scan_of_reads_short {l l' : Line} {bs : List Bool} (hh : l.answer queryHeader = true)
    (hr : Reads (l.ask queryHeader) bs l') (hlen : bs.length < 104)
    (h1 : l'.answer queryOne = false) (h0 : (l'.ask queryOne).answer queryZero = false) :
    scan l = (.bitMismatch bs.length, (l'.ask queryOne).ask queryZero) := by
  obtain ⟨m, hm⟩ : ∃ m, CFG.dataBits = bs.length + (m + 1) := ⟨103 - bs.length, by simp [CFG]; omega⟩
  simp [scan, hh, hm, scanBits_reads hr, scanBits, h1, h0]

/-- The scan of a port whose answers spell 104 bits ends on the footer's answer (R143, R144). -/
theorem scan_of_reads_whole {l l' : Line} {bs : List Bool} (hh : l.answer queryHeader = true)
    (hr : Reads (l.ask queryHeader) bs l') (hlen : bs.length = 104) :
    scan l = (if l'.answer queryFooter then .read (setBits 0 bs Frame.zero) else .footerMismatch,
      l'.ask queryFooter) := by
  have hbits : CFG.dataBits = bs.length + 0 := hlen.symm
  simp only [scan, hh, hbits, scanBits_reads hr, scanBits, if_true]
  split <;> rfl

theorem map_answer_readEvents (bs : List Bool) :
    (readEvents bs).map RxEvent.answer = spell bs := by
  induction bs with
  | nil => rfl
  | cons b bs ih => cases b <;> simp [readEvents, spell, ih]

theorem scan_oracle_header (c : List Symbol) (n : Nat) (rest : List Bool) (log : List RxEvent) :
    scan ⟨⟨c, n, .oracle (false :: rest)⟩, log⟩ =
      (.headerMismatch, ⟨⟨c, n, .oracle rest⟩, log ++ [⟨queryHeader, false⟩]⟩) := rfl

/-- `reads_oracle` at the port that an oracle's answer to the header query leaves. -/
theorem reads_oracle_header (c : List Symbol) (n : Nat) (bs rest : List Bool) (log : List RxEvent) :
    Reads ((⟨⟨c, n, .oracle (true :: (spell bs ++ rest))⟩, log⟩ : Line).ask queryHeader) bs
      ⟨⟨c, n + 1 + bs.length, .oracle rest⟩, log ++ [⟨queryHeader, true⟩] ++ readEvents bs⟩ :=
  reads_oracle c (n + 1) bs rest _

/-- An oracle that spells fewer than 104 bits and then answers absent twice (R142). -/
theorem scan_oracle_short (c : List Symbol) (n : Nat) {bs : List Bool} (hlen : bs.length < 104)
    (rest : List Bool) (log : List RxEvent) :
    scan ⟨⟨c, n, .oracle (true :: (spell bs ++ false :: false :: rest))⟩, log⟩ =
      (.bitMismatch bs.length, ⟨⟨c, n + 1 + bs.length, .oracle rest⟩,
        log ++ ⟨queryHeader, true⟩ :: readEvents bs ++ [⟨queryOne, false⟩, ⟨queryZero, false⟩]⟩) := by
  rw [scan_of_reads_short rfl (reads_oracle_header ..) hlen rfl rfl]
  simp [Line.ask_mk, Receiver.after, Answers.spend]

/-- An oracle that spells 104 bits and then answers the footer's query with `a` (R143, R144). -/
theorem scan_oracle_whole (c : List Symbol) (n : Nat) {bs : List Bool} (hlen : bs.length = 104)
    (a : Bool) (rest : List Bool) (log : List RxEvent) :
    scan ⟨⟨c, n, .oracle (true :: (spell bs ++ a :: rest))⟩, log⟩ =
      (if a then .read (setBits 0 bs Frame.zero) else .footerMismatch,
        ⟨⟨c, if a then n + 1 + bs.length + 1 else n + 1 + bs.length, .oracle rest⟩,
          log ++ ⟨queryHeader, true⟩ :: readEvents bs ++ [⟨queryFooter, a⟩]⟩) := by
  rw [scan_of_reads_whole rfl (reads_oracle_header ..) hlen]
  simp [Line.answer, Line.ask_mk, Receiver.after, Answers.spend]

/-- The answers a scan adds to RXLOG, given by an oracle, lead to the same end and the same entries: the
scan sees nothing of the receiver but its answers (R51, R140). -/
theorem scan_replay (l : Line) (c : List Symbol) (n : Nat) :
    ∃ r, scan ⟨⟨c, n, .oracle (((scan l).2.log.drop l.log.length).map RxEvent.answer)⟩, l.log⟩ =
      ((scan l).1, ⟨r, (scan l).2.log⟩) := by
  cases scanRun l with
  | headerMismatch hh heq =>
    simp [heq, hh, scan_oracle_header]
  | bitMismatch bs l' hh hr hlen h1 h0 heq =>
    have := scan_oracle_short c n hlen [] l.log
    simp [heq, hh, hr.log, h1, h0, map_answer_readEvents, this]
  | footerMismatch bs l' hh hr hlen hf heq =>
    have := scan_oracle_whole c n hlen false [] l.log
    simp [heq, hh, hr.log, hf, map_answer_readEvents, this]
  | read bs l' hh hr hlen hf heq =>
    have := scan_oracle_whole c n hlen true [] l.log
    simp [heq, hh, hr.log, hf, map_answer_readEvents, this]

theorem State.settle_withReceiver (s : State) (r : Receiver) (d : Decoded) :
    ({ s with rx := r } : State).settle d = { s.settle d with rx := r } := by
  cases d <;> rfl

theorem State.endScan_withReceiver (s : State) (r : Receiver) (o : Scan) :
    ({ s with rx := r } : State).endScan o = { s.endScan o with rx := r } := by
  cases o with
  | read f => exact (s.setFrame f).settle_withReceiver r _
  | _ => rfl

/-- A PDEC at another receiver whose scan ends alike and logs alike leads to the same state, up to the
receiver. -/
theorem execPdec_of_scan_eq {s : State} {r r' : Receiver}
    (h : scan ⟨r, s.rxlog⟩ = ((scan s.line).1, ⟨r', (scan s.line).2.log⟩)) (ign : BitVec 29) :
    exec (.pdec ign) { s with rx := r } =
      .next { (s.hear (scan s.line).2).endScan (scan s.line).1 with rx := r' } := by
  simp only [exec, execPdec, State.line] at h ⊢
  rw [h]
  exact congrArg _ ((s.hear (scan s.line).2).endScan_withReceiver r' _)

/-- Settles O36: the replayed scan ends as the first one did, and how a PDEC ends on it does not look at
the receiver. -/
theorem pdecFollowsTheAnswersAlone : Obligations.PdecFollowsTheAnswersAlone := by
  intro ign s t ht
  cases ht
  rw [State.endScan_rxlog, State.hear_rxlog]
  obtain ⟨r, hr⟩ := scan_replay s.line [] 0
  exact ⟨_, execPdec_of_scan_eq hr ign, rfl, rfl, rfl, rfl, by simp⟩

end Sys2Proof.Machine
end

section
/-! PROOFS. The statements about the decoder and the encoder: the parts of a CMD value and the border
between the two frame rows, then what the decoder of each format answers, and the two round trips. -/

namespace Sys2Proof

/-! ## The two parts of a CMD value -/

/-- Bits 2:0 of a CMD value are its code (R80). -/
@[simp] theorem extractLsb'_cmdWord_code (ign : BitVec 29) (code : BitVec 3) :
    (cmdWord ign code).extractLsb' 0 3 = code := by
  refine BitVec.eq_of_getLsbD_eq fun k hk => ?_
  have hk32 : k < 32 := by omega
  simp [cmdWord, hk, hk32]

/-- Bits 31:3 of a CMD value are the part no rule reads (R81). -/
@[simp] theorem extractLsb'_cmdWord_ign (ign : BitVec 29) (code : BitVec 3) :
    (cmdWord ign code).extractLsb' 3 29 = ign := by
  refine BitVec.eq_of_getLsbD_eq fun k hk => ?_
  have hk32 : 3 + k < 32 := by omega
  simp [cmdWord, hk, hk32]

/-- A CMD value is its two parts (R80, R81). -/
@[simp] theorem cmdWord_extractLsb' (v : BitVec 32) :
    cmdWord (v.extractLsb' 3 29) (v.extractLsb' 0 3) = v := by
  refine BitVec.eq_of_getLsbD_eq fun k hk => ?_
  by_cases hk3 : k < 3
  · simp [cmdWord, hk, hk3]
  · have hge : 3 ≤ k := Nat.le_of_not_lt hk3
    have hlt : k - 3 < 29 := by omega
    simp [cmdWord, hk, hk3, hlt, Nat.add_sub_cancel' hge]

/-- A CMD value modulo 8 is its code (R81). -/
theorem toNat_cmdWord_mod (ign : BitVec 29) (code : BitVec 3) :
    (cmdWord ign code).toNat % 8 = code.toNat := by
  have h := congrArg BitVec.toNat (extractLsb'_cmdWord_code ign code)
  rwa [BitVec.extractLsb'_toNat, Nat.shiftRight_zero] at h

/-- Codes 6 and 7 are told apart by their bit 0 (R81). -/
theorem reservedCode_low {code : BitVec 3} (h : code ∉ [0#3, 1#3, 2#3, 3#3, 4#3, 5#3]) :
    6#3 ||| (code.extractLsb' 0 1).setWidth 3 = code := by
  revert code
  decide

/-! ## Well-formed frame rows -/

/-- A FRAME term is well-formed when FRAME.ENCODED does not claim its word (R86). -/
theorem wellFormed_frame_iff (swing : BitVec 3) (temp : BitVec 5)
    (fan byte5 mode byte7 byte8 power btn sum : Byte) :
    (Instr.frame swing temp fan byte5 mode byte7 byte8 power btn sum).wellFormed = true ↔
      ¬ (byte5 = 0x00#8 ∧ byte7 = 0x00#8 ∧ byte8 = 0x00#8 ∧ btn = CFG.button
        ∧ codesListed swing fan mode power = true) := by
  simp only [Instr.wellFormed, Bool.not_eq_true', ← Bool.not_eq_true, Bool.and_eq_true, beq_iff_eq,
    and_assoc]

/-- Whatever the snapshot, the codes FrameEncode writes are listed (R101, R105, R106). -/
theorem codesListed_codes (c : Snapshot) :
    codesListed (swingCode c.swing) (fanCode c.fan)
      (if c.power = 1#1 then modeCode c.mode else 0x00#8) (powerCode c.power) = true := by
  have hfan : ∀ fan, (fanOf (fanCode fan)).isSome = true ∨ fanCode fan = 0x00#8 := by decide
  have hmode : ∀ power mode,
      (modeOf (if power = 1#1 then modeCode mode else 0x00#8)).isSome = true := by decide
  have hpower : ∀ power, powerCode power = CFG.powerOn ∨ powerCode power = CFG.powerOff := by decide
  simp only [codesListed, swingOf_swingCode, Option.isSome_some, Bool.true_and, Bool.and_eq_true,
    Bool.or_eq_true, beq_iff_eq]
  exact ⟨⟨hfan _, hmode _ _⟩, hpower _⟩

/-! ## What the decoder of each format answers -/

/-- `w` is the word of the well-formed row `i`. -/
def Spells (i : Instr) (w : TableWord) : Prop := i.wellFormed = true ∧ encode i = w

/-- A CMD value keeps its code and its unread bits (R80, R81). -/
theorem spells_decodeCmd (v : BitVec 32) : Spells (decodeCmd v) (.cmd v) := by
  rw [← cmdWord_extractLsb' v]
  generalize v.extractLsb' 3 29 = ign
  generalize v.extractLsb' 0 3 = code
  simp only [decodeCmd, extractLsb'_cmdWord_code, extractLsb'_cmdWord_ign]
  split_ifs
  case neg =>
    have hcode : code ∉ [0#3, 1#3, 2#3, 3#3, 4#3, 5#3] := by simp [*]
    exact ⟨rfl, by simp only [encode, reservedCode_low hcode]⟩
  all_goals
    subst code
    exact ⟨rfl, rfl⟩

/-- Each frame row keeps every byte its identifiers and its form do not fix (R73, R86). -/
theorem spells_of_decodeFrame {w : BitVec 104} {i : Instr} (h : decodeFrame w = .ok i) :
    Spells i (.frame w) := by
  rw [← Frame.toWord_ofWord w]
  unfold decodeFrame at h
  generalize Frame.ofWord w = f at h ⊢
  obtain ⟨b0, b1, b2, b3, b4, b5, b6, b7, b8, b9, b10, b11, b12⟩ := f
  simp only [Frame.idsMatch, Bool.and_eq_true, beq_iff_eq] at h
  split_ifs at h with hid henc
  all_goals
    obtain ⟨⟨⟨rfl, rfl⟩, rfl⟩, rfl⟩ := hid
    cases h
  · obtain ⟨rfl, rfl, rfl, rfl, hcodes⟩ := henc
    exact ⟨hcodes, by simp only [encode, byte1_bits]⟩
  · exact ⟨(wellFormed_frame_iff ..).mpr henc, by simp only [encode, byte1_bits]⟩

/-- Each whole-byte field row is one code at one place (R61 to R77). -/
theorem spells_of_decodeField8 {p : BytePlace} {c : Byte} {i : Instr} (h : decodeField8 p c = .ok i) :
    Spells i (.field8 p c) := by
  cases p
  all_goals
    simp only [decodeField8] at h
    split_ifs at h
    all_goals
      cases h
      subst c
      exact ⟨rfl, rfl⟩

/-- Each swing row is one code (R76). -/
theorem spells_of_decodeField3 {c : BitVec 3} {i : Instr} (h : decodeField3 c = .ok i) :
    Spells i (.field3 c) := by
  simp only [decodeField3] at h
  split_ifs at h
  all_goals
    cases h
    subst c
    exact ⟨rfl, rfl⟩

/-- Each symbol row is one pair of durations (R79). -/
theorem spells_of_decodeSymbol {w : BitVec 32} {i : Instr} (h : decodeSymbol w = .ok i) :
    Spells i (.symbol w) := by
  simp only [decodeSymbol] at h
  split_ifs at h
  all_goals
    cases h
    subst w
    exact ⟨rfl, rfl⟩

/-! ## The round trips -/

/-- Settles O47: a CMD value gives its code and its unread part back, a frame word its bytes, and the
other rows are single words. -/
theorem decodeOfEncode : Obligations.DecodeOfEncode := by
  intro i hwf
  cases i with
  | fenc ign | fdec ign | penc ign | pdec ign | xmit ign | reserved0 ign =>
    simp [decode, encode, decodeCmd]
  | reserved67 ign low =>
    obtain rfl | rfl := low.eq_zero_or_eq_one
    all_goals simp [decode, encode, decodeCmd]
  | frame swing temp fan byte5 mode byte7 byte8 power btn sum =>
    rw [wellFormed_frame_iff] at hwf
    simp [decode, encode, decodeFrame, Frame.idsMatch, hwf]
  | frameEncoded swing temp fan mode power sum =>
    have hcodes : codesListed swing fan mode power = true := hwf
    simp [decode, encode, decodeFrame, Frame.idsMatch, hcodes]
  | _ => rfl

/-- Settles O48: in each format the decoder keeps every bit of the word it reads. -/
theorem encodeOfDecode : Obligations.EncodeOfDecode := by
  intro w i h
  cases w with
  | cmd v =>
    cases h
    exact spells_decodeCmd v
  | frame w => exact spells_of_decodeFrame h
  | field8 p c => exact spells_of_decodeField8 h
  | field5 c =>
    cases h
    exact ⟨rfl, rfl⟩
  | field3 c => exact spells_of_decodeField3 h
  | symbol w => exact spells_of_decodeSymbol h

/-- A word is decoded by finding the well-formed row that encodes to it. -/
theorem Spells.decode {i : Instr} {w : TableWord} (h : Spells i w) : decode w = .ok i :=
  h.2 ▸ decodeOfEncode i h.1

/-- Settles O49: the encoded frame is the frame of a FRAME.ENCODED row with listed codes. -/
theorem encodedFrameIsAWordOfItsRow : Obligations.EncodedFrameIsAWordOfItsRow :=
  fun c => ⟨_, _, _, _, _, _, Spells.decode ⟨codesListed_codes c, rfl⟩⟩

/-- Settles O50: each word is the word of a well-formed row. -/
theorem sampleWordsDecode : Obligations.SampleWordsDecode :=
  ⟨rfl, rfl, Spells.decode ⟨rfl, by decide +kernel⟩, Spells.decode ⟨rfl, by decide +kernel⟩,
    rfl, rfl⟩

end Sys2Proof
end

section
/-! PROOFS. The statements about what the rows do: every row hands the word it encodes to to the block, so
the frame, field and symbol rows write what their words hold; then the reserved codes, FENC and FDEC. -/

namespace Sys2Proof

/-! ## Byte 1 by its bits -/

theorem toNat_tempBits (b : Byte) : (tempBits b).toNat = b.toNat / 8 := by
  revert b
  decide

theorem toNat_swingBits (b : Byte) : (swingBits b).toNat = b.toNat % 8 := by
  revert b
  decide

theorem getLsbD_swingBits (b : Byte) {j : Nat} (hj : j < 3) :
    (swingBits b).getLsbD j = b.getLsbD j := by
  simp [swingBits, hj]

theorem getLsbD_tempBits (b : Byte) {j : Nat} (hj : 3 ≤ j) :
    (tempBits b).getLsbD (j - 3) = b.getLsbD j := by
  have hge : 8 ≤ j → b.getLsbD j = false := BitVec.getLsbD_of_ge b j
  by_cases h5 : j - 3 < 5
  · simp [tempBits, h5, Nat.add_sub_cancel' hj]
  · simp [tempBits, h5, hge (by omega)]

/-! ## The checksum and the identifier test in the spec's numbers -/

open Sys2Proof.Claims

/-- The twelve u8 additions are the sum over Nat, modulo 256 (R104). -/
theorem toNat_checksum (f : Frame) : (checksum f).toNat = sum12 f % 256 := by
  simp [checksum, sum12]

/-- The identifier test of the model is the spec's (R73). -/
theorem idsMatch_iff (f : Frame) : f.idsMatch = true ↔ Identified f := by
  simp only [Frame.idsMatch, Bool.and_eq_true, beq_iff_eq, and_assoc]
  rfl

/-- The model's well-formedness is the spec's (R73). -/
theorem wellFormed_iff_isWellFormed (f : Frame) : f.wellFormed = true ↔ IsWellFormed f := by
  rw [Frame.wellFormed_iff, idsMatch_iff, IsWellFormed, ← toNat_checksum, BitVec.toNat_inj,
    eq_comm (a := checksum f)]

/-- Masking a word masks the bytes of its frame (R52). -/
theorem Frame.ofWord_and (v w : BitVec 104) :
    Frame.ofWord (v &&& w) = (Frame.ofWord v).and (Frame.ofWord w) := by
  rw [← Frame.ofWord_toWord ((Frame.ofWord v).and _), ← Frame.toWord_and, Frame.toWord_ofWord,
    Frame.toWord_ofWord]

/-- A frame is identified when its word lies under the mask of R73. -/
theorem identified_iff_and_mask (w : BitVec 104) :
    w &&& 0x0000FF000000000000FFFF00FF#104 = 0x000020000000000000122000C3#104 ↔
      Identified (Frame.ofWord w) := by
  have hinj : Function.Injective Frame.ofWord := Function.LeftInverse.injective Frame.toWord_ofWord
  have hmask : Frame.ofWord 0x0000FF000000000000FFFF00FF#104
      = ⟨0xFF, 0, 0xFF, 0xFF, 0, 0, 0, 0, 0, 0, 0xFF, 0, 0⟩ := by decide
  have hmatch : Frame.ofWord 0x000020000000000000122000C3#104
      = ⟨0xC3, 0, 0x20, 0x12, 0, 0, 0, 0, 0, 0, 0x20, 0, 0⟩ := by decide
  have hones (b : Byte) : b &&& 255#8 = b := BitVec.and_allOnes
  rw [← hinj.eq_iff, Frame.ofWord_and, hmask, hmatch, Identified]
  simp [Frame.and, hones]

end Sys2Proof

namespace Sys2Proof.Machine

open Sys2Proof.Claims

/-! ## Every row hands its word to the block -/

/-- The state after a table word is handed to the block: the command of a CMD value, a frame or a field
in FRAME, a symbol at the receiver. -/
def State.hand (s : State) : TableWord → State
  | .cmd v => s.command (v.toNat % 8)
  | .frame w => s.setFrame (Frame.ofWord w)
  | .field8 p c => s.writeField p c
  | .field5 t => s.writeTemp t
  | .field3 c => s.writeSwing c
  | .symbol w => s.receive (Symbol.ofWord w)

/-- Every row, well-formed or not, runs as the handing over of the word it encodes to. -/
theorem exec_eq_hand (i : Instr) (s : State) : exec i s = .next (s.hand (encode i)) := by
  cases i with
  | fenc | fdec | penc | pdec | xmit | reserved0 =>
    rw [encode, State.hand, toNat_cmdWord_mod]
    rfl
  | reserved67 ign low =>
    rw [encode, State.hand, toNat_cmdWord_mod]
    obtain rfl | rfl := low.eq_zero_or_eq_one
    all_goals rfl
  | frame | frameEncoded =>
    rw [encode, State.hand, Frame.ofWord_toWord]
    rfl
  | _ => rfl

/-- Settles O43: the word a frame row hands over is the frame it loads. -/
theorem frameRowLoadsItsWord : Obligations.FrameRowLoadsItsWord := by
  intro i w s h
  rw [exec_eq_hand, h]
  rfl

/-! ## The field rows -/

/-- Where a field word stands in FRAME: byte, lowest bit, width, code (table T5). -/
def fieldOf : TableWord → Option (Fin 13 × Nat × Nat × Nat)
  | .field8 p c => some (placeIndex p, 0, 8, c.toNat)
  | .field5 t => some (1, 3, 5, t.toNat)
  | .field3 c => some (1, 0, 3, c.toNat)
  | .cmd _ | .frame _ | .symbol _ => none

/-- The field rows of the opcode table are the rows whose words are fields. -/
theorem fieldRow_eq_fieldOf_encode (i : Instr) : fieldRow i = fieldOf (encode i) := by
  cases i <;> rfl

/-- `g` is `f` with `code` in bits `lo + width - 1 : lo` of byte `b`. -/
structure HoldsField (f g : Frame) (b : Fin 13) (lo width code : Nat) : Prop where
  code  : (g.get b).toNat / 2 ^ lo % 2 ^ width = code
  bits  : ∀ j, j < lo ∨ lo + width ≤ j → (g.get b).getLsbD j = (f.get b).getLsbD j
  bytes : ∀ j, j ≠ b → g.get j = f.get j

/-- A whole-byte field leaves no other bit of its byte. -/
theorem holdsField_byte (f : Frame) (i : Fin 13) (c : Byte) :
    HoldsField f (f.set i c) i 0 8 c.toNat where
  code := by simpa using Nat.mod_eq_of_lt c.isLt
  bits j hj := by
    have hj8 : 8 ≤ j := by omega
    rw [BitVec.getLsbD_of_ge _ _ hj8, BitVec.getLsbD_of_ge _ _ hj8]
  bytes j hj := by simp [hj]

/-- The temperature field leaves the swing code in bits 2:0 (R62). -/
theorem holdsField_temp (f : Frame) (t : BitVec 5) :
    HoldsField f (f.set 1 (byte1 t (swingBits f.b1))) 1 3 5 t.toNat where
  code := by
    rw [Frame.get_set, if_pos rfl, show 2 ^ 3 = 8 from rfl, ← toNat_tempBits, tempBits_byte1]
    exact Nat.mod_eq_of_lt t.isLt
  bits j hj := by
    rw [Frame.get_set, if_pos rfl]
    obtain hj | hj := hj
    · rw [← getLsbD_swingBits _ hj, swingBits_byte1, getLsbD_swingBits _ hj]
      rfl
    · rw [BitVec.getLsbD_of_ge _ _ hj, BitVec.getLsbD_of_ge _ _ hj]
  bytes j hj := by simp [hj]

/-- The swing field leaves the temperature in bits 7:3 (R63). -/
theorem holdsField_swing (f : Frame) (c : BitVec 3) :
    HoldsField f (f.set 1 (byte1 (tempBits f.b1) c)) 1 0 3 c.toNat where
  code := by
    rw [Frame.get_set, if_pos rfl, pow_zero, Nat.div_one, show 2 ^ 3 = 8 from rfl, ← toNat_swingBits,
      swingBits_byte1]
  bits j hj := by
    have hj3 : 3 ≤ j := by omega
    rw [Frame.get_set, if_pos rfl, ← getLsbD_tempBits _ hj3, tempBits_byte1, getLsbD_tempBits _ hj3]
    rfl
  bytes j hj := by simp [hj]

/-- A field word handed over leaves its field in FRAME and touches nothing else. -/
theorem hand_field {w : TableWord} {b : Fin 13} {lo width code : Nat}
    (h : fieldOf w = some (b, lo, width, code)) (s : State) :
    ∃ f, s.hand w = { s with frame := f } ∧ HoldsField s.frame f b lo width code := by
  cases w with
  | field8 p c =>
    cases h
    exact ⟨_, rfl, holdsField_byte ..⟩
  | field5 t =>
    cases h
    exact ⟨_, rfl, holdsField_temp ..⟩
  | field3 c =>
    cases h
    exact ⟨_, rfl, holdsField_swing ..⟩
  | cmd | frame | symbol => cases h

/-- Settles O44: a field row hands its field's word over. -/
theorem fieldRowWritesItsBits : Obligations.FieldRowWritesItsBits := by
  intro i s b lo width code h
  rw [fieldRow_eq_fieldOf_encode] at h
  obtain ⟨f, hhand, hfield⟩ := hand_field h s
  exact ⟨f, by rw [exec_eq_hand, hhand], hfield.code, hfield.bits, hfield.bytes⟩

/-! ## The symbol rows -/

/-- Settles O45: each symbol row hands the symbol of its row of table T8 to the receiver. -/
theorem symbolRowReachesTheReceiver : Obligations.SymbolRowReachesTheReceiver := by
  intro i s mark space h
  cases i with
  | hdr | zero | one | ftr =>
    cases h
    rfl
  | _ => cases h

/-! ## The reserved rows -/

/-- Settles O40: the codes 0, 6 and 7 raise IllegalCommand, in the two rows and in a CMD write. -/
theorem reservedCommandIsIllegal : Obligations.ReservedCommandIsIllegal := by
  refine fun ign low s => ⟨rfl, rfl, fun v rest hv => ?_⟩
  rw [step_wr_cmd rfl]
  obtain h | h | h := hv
  all_goals
    rw [h]
    rfl

/-! ## FENC and FDEC -/

/-- Settles O23: FDEC ends Ok when both checks pass, and `settle` writes ST_* in no other case. -/
theorem fdecSucceedsExactlyOnWellFormedFrames : Obligations.FdecSucceedsExactlyOnWellFormedFrames := by
  refine ⟨fun ign s => ⟨_, rfl, ?_⟩, identified_iff_and_mask⟩
  have hok : (s.settle (frameDecode s.frame s.st)).result = .ok ↔ IsWellFormed s.frame := by
    rw [← wellFormed_iff_isWellFormed, Frame.wellFormed_iff, frameDecode]
    split_ifs <;> simp [State.settle, *]
  exact ⟨hok, fun h => s.settle_st _ (mt hok.mp h)⟩

/-- The temperature field in the spec's numbers: `- 8` is `+ 24` modulo 32 (R103). -/
theorem toNat_tempField (t : BitVec 6) : (tempField t).toNat = (t.toNat + 24) % 32 := by
  revert t
  decide

/-- Table T6 in the spec's order (R105). -/
theorem fanCode_eq (v : BitVec 3) :
    fanCode v = if v = 0#3 then 0xA0#8 else if v = 3#3 then 0x60#8 else if v = 2#3 then 0x40#8
      else if v = 1#3 then 0x20#8 else 0x00#8 := by
  revert v
  decide

/-- Table T7, whose Auto is the byte of an unsupported mode (R106). -/
theorem modeCode_eq (v : BitVec 3) :
    modeCode v = if v = 1#3 then 0x20#8 else if v = 2#3 then 0x80#8 else if v = 3#3 then 0x40#8
      else if v = 4#3 then 0xC0#8 else 0x00#8 := by
  revert v
  decide

/-- Settles O16: each byte of the encoded frame is the code of its field. -/
theorem encodedFrameHasTheBytesOfTheRules : Obligations.EncodedFrameHasTheBytesOfTheRules := by
  intro ign s
  have htemp : (byte1 (tempField s.st.temp) (swingCode s.st.swing)).toNat / 8
      = (s.st.temp.toNat + 24) % 32 := by
    rw [← toNat_tempBits, tempBits_byte1, toNat_tempField]
  have hswing : (byte1 (tempField s.st.temp) (swingCode s.st.swing)).toNat % 8
      = if s.st.swing = 1#1 then 7 else 0 := by
    rw [← toNat_swingBits, swingBits_byte1, swingCode]
    split_ifs <;> rfl
  refine ⟨s.fenc, rfl, rfl, rfl, rfl, rfl, rfl, htemp, hswing, ?_, ?_, rfl, rfl, rfl, rfl,
    toNat_checksum _⟩
  · exact fanCode_eq _
  · rw [← modeCode_eq]
    rfl

end Sys2Proof.Machine
end

section
/-! PROOFS. The statements about the frame codec: what the checksum detects, how an FDEC ends in each of
the three cases of its two checks and what it reads from a well-formed frame, the two round trips, and
the field rows that spell an encoded frame. -/

namespace Sys2Proof

open Sys2Proof.Claims

/-! ## The checksum -/

/-- The checksum is the sum of the bytes before byte 12, in the ring of bytes (R104). -/
theorem checksum_eq_sum (f : Frame) : checksum f = ∑ i : Fin 12, f.get i.castSucc := by
  simp only [Fin.sum_univ_castSucc, Fin.sum_univ_zero, zero_add]
  rfl

/-- Byte 12 is not in the sum (R104). -/
@[simp] theorem checksum_set_twelve (f : Frame) (v : Byte) : checksum (f.set 12 v) = checksum f := rfl

/-- A write of a byte in the sum moves the checksum by what it moves the byte (R104). -/
theorem checksum_set (f : Frame) {i : Fin 13} (hi : i ≠ 12) (v : Byte) :
    checksum (f.set i v) = checksum f + (v - f.get i) := by
  obtain ⟨k, rfl⟩ := Fin.exists_castSucc_eq.mpr hi
  have hbyte (j : Fin 12) : (f.set k.castSucc v).get j.castSucc
      = f.get j.castSucc + if j = k then v - f.get k.castSucc else 0 := by
    by_cases hjk : j = k <;> simp [hjk]
  simp_rw [checksum_eq_sum, hbyte, Finset.sum_add_distrib, Finset.sum_ite_eq', Finset.mem_univ, if_pos]

/-- Settles O17: a write moves the sum by the change it makes, so one change shows and two opposite
changes cancel. -/
theorem checksumIsTheUnmaskedSum : Obligations.ChecksumIsTheUnmaskedSum := by
  refine fun f => ⟨toNat_checksum f, checksum_set_twelve f, fun i v hi hv => ?_,
    fun i j d hij hi hj => ?_⟩
  · rw [checksum_set f hi, Ne, add_eq_left, sub_eq_zero]
    exact hv
  · rw [checksum_set _ hj, checksum_set f hi, Frame.get_set, if_neg hij.symm]
    ring

/-! ## Changes to a well-formed frame -/

/-- A frame with one identifier byte changed is no longer identified (R112). -/
theorem not_identified_set {f : Frame} (hf : Identified f) {i : Fin 13}
    (hi : i = 0 ∨ i = 2 ∨ i = 3 ∨ i = 10) {v : Byte} (hv : v ≠ f.get i) :
    ¬ Identified (f.set i v) := by
  rintro ⟨h0, h2, h3, h10⟩
  obtain ⟨f0, f2, f3, f10⟩ := hf
  obtain rfl | rfl | rfl | rfl := hi
  · exact hv (h0.trans f0.symm)
  · exact hv (h2.trans f2.symm)
  · exact hv (h3.trans f3.symm)
  · exact hv (h10.trans f10.symm)

/-! ## What decode reads from the fields -/

/-- A table of codes over a previous value, one entry at a time. -/
theorem getD_ite_some {α : Type} (p : Prop) [Decidable p] (a prev : α) (rest : Option α) :
    (if p then some a else rest).getD prev = if p then a else rest.getD prev :=
  apply_ite (Option.getD · prev) p (some a) rest

theorem toNat_tempOf (c : BitVec 5) : (tempOf c).toNat = c.toNat + 8 := by
  revert c
  decide

/-- The swing code over a previous swing, from byte 1 (R116). -/
theorem swingOf_swingBits_getD (b : Byte) (prev : BitVec 1) :
    (swingOf (swingBits b)).getD prev
      = if b.toNat % 8 = 0 then 0#1 else if b.toNat % 8 = 7 then 1#1 else prev := by
  have hcode (c : BitVec 3) : swingBits b = c ↔ b.toNat % 8 = c.toNat := by
    rw [← toNat_swingBits, BitVec.toNat_inj]
  simp only [swingOf, CFG, hcode, getD_ite_some]
  rfl

/-- Table T6 over a previous fan, in the spec's order (R117). -/
theorem fanOf_getD (b : Byte) (prev : BitVec 3) :
    (fanOf b).getD prev = if b = 0xA0#8 then 0#3 else if b = 0x60#8 then 3#3
      else if b = 0x40#8 then 2#3 else if b = 0x20#8 then 1#3 else prev := by
  by_cases hlow : b = CFG.fanLow
  · subst hlow
    rfl
  by_cases hmed : b = CFG.fanMedium
  · subst hmed
    rfl
  have hlow' : b ≠ 0x20#8 := hlow
  have hmed' : b ≠ 0x40#8 := hmed
  simp only [fanOf, hlow, hmed, hlow', hmed', if_false, getD_ite_some, Option.getD_none]
  rfl

/-- Table T7 over a previous mode (R118). -/
theorem modeOf_getD (b : Byte) (prev : BitVec 3) :
    (modeOf b).getD prev = if b = 0x00#8 then 0#3 else if b = 0x20#8 then 1#3
      else if b = 0x80#8 then 2#3 else if b = 0x40#8 then 3#3 else if b = 0xC0#8 then 4#3
      else prev := by
  simp only [modeOf, getD_ite_some, Option.getD_none]
  rfl

/-! ## Decode of a well-formed frame -/

/-- Byte 9 = 0x20: every field is read (R115 to R118). -/
theorem interpret_powerOn {f : Frame} (h : powerOf f.b9 = 1#1) (prev : Snapshot) :
    interpret f prev =
      { power := 1#1
        temp := tempOf (tempBits f.b1)
        swing := (swingOf (swingBits f.b1)).getD prev.swing
        fan := (fanOf f.b4).getD prev.fan
        mode := (modeOf f.b6).getD prev.mode } :=
  if_pos h

/-- Any other byte 9: power off and mode Off over the previous snapshot (R114). -/
theorem interpret_powerOff {f : Frame} (h : powerOf f.b9 = 0#1) (prev : Snapshot) :
    interpret f prev = { prev with power := 0#1, mode := 5#3 } :=
  if_neg (by simp [h])

/-- Decode reads bytes 1, 4, 6 and 9 alone (R120). -/
theorem interpret_congr {f g : Frame} (h1 : f.b1 = g.b1) (h4 : f.b4 = g.b4) (h6 : f.b6 = g.b6)
    (h9 : f.b9 = g.b9) (prev : Snapshot) : interpret f prev = interpret g prev := by
  simp only [interpret, h1, h4, h6, h9]

/-! ## The encoded frame -/

/-- Byte 9 of the encoded frame tells the power of the snapshot (R107). -/
theorem powerOf_frameEncode (c : Snapshot) : powerOf (frameEncode c).b9 = c.power :=
  powerOf_powerCode c.power

/-- The encoded frame is well-formed, whatever the snapshot (R109). -/
theorem isWellFormed_frameEncode (c : Snapshot) : IsWellFormed (frameEncode c) :=
  ⟨⟨rfl, rfl, rfl, rfl⟩, toNat_checksum _⟩

/-- Byte 6 of an encoded power-on snapshot is its mode's code (R106). -/
theorem frameEncode_b6_powerOn {c : Snapshot} (h : c.power = 1#1) :
    (frameEncode c).b6 = modeCode c.mode :=
  if_pos h

/-- Decode undoes encode on the source's ranges, over any previous snapshot (R121 a). -/
theorem interpret_frameEncode {c : Snapshot} (h : RoundTrips c) (prev : Snapshot) :
    interpret (frameEncode c) prev = c := by
  obtain ⟨hpower, hmode, hfan, hlow, hhigh⟩ := h
  have htemp : tempOf (tempField c.temp) = c.temp := tempOf_tempField (by omega) (by omega)
  rw [interpret_powerOn ((powerOf_frameEncode c).trans hpower), frameEncode_b6_powerOn hpower,
    modeOf_modeCode hmode]
  ext1
  · exact hpower.symm
  · rfl
  · exact congrArg (·.getD prev.fan) (fanOf_fanCode hfan)
  · simp [frameEncode]
  · simpa [frameEncode] using htemp

end Sys2Proof

namespace Sys2Proof.Machine

open Sys2Proof.Claims

/-! ## How an FDEC ends -/

/-- The first check fails: StaticMismatch (R112). -/
theorem exec_fdec_of_not_identified (ign : BitVec 29) {s : State} (h : ¬ Identified s.frame) :
    exec (.fdec ign) s = .next (failed s .staticMismatch 0#7) := by
  have hdec : frameDecode s.frame s.st = .staticMismatch := if_neg (mt (idsMatch_iff _).mp h)
  rw [exec, execFdec, hdec]
  rfl

/-- The first check passes and the second fails: ChecksumMismatch (R113). -/
theorem exec_fdec_of_wrong_sum (ign : BitVec 29) {s : State} (hid : Identified s.frame)
    (hsum : s.frame.b12.toNat ≠ sum12 s.frame % 256) :
    exec (.fdec ign) s = .next (failed s .checksumMismatch 0#7) := by
  have hne : checksum s.frame ≠ s.frame.b12 := fun h => hsum (by rw [← toNat_checksum, h])
  have hdec : frameDecode s.frame s.st = .checksumMismatch := by
    rw [frameDecode, if_pos ((idsMatch_iff _).mpr hid), if_neg hne]
  rw [exec, execFdec, hdec]
  rfl

/-- Both checks pass: Ok, and ST_* hold what the frame is read as (R111). -/
theorem exec_fdec_of_wellFormed (ign : BitVec 29) {s : State} (h : IsWellFormed s.frame) :
    exec (.fdec ign) s = .next (succeeded { s with st := interpret s.frame s.st }) := by
  rw [exec, execFdec, frameDecode_wellFormed ((wellFormed_iff_isWellFormed _).mpr h)]
  rfl

/-- Settles O18: the identifier bytes are checked before anything else. -/
theorem fdecReportsStaticMismatch : Obligations.FdecReportsStaticMismatch :=
  fun ign _ h => exec_fdec_of_not_identified ign h

/-- Settles O19: the sum is checked second, and one changed byte fails the check it belongs to. -/
theorem fdecChecksTheSumSecond : Obligations.FdecChecksTheSumSecond := by
  refine ⟨fun ign s hsum => ⟨fun hid => exec_fdec_of_wrong_sum ign hid hsum,
    exec_fdec_of_not_identified ign⟩, fun ign s f v hf => ⟨fun i hi hv => ?_, fun hv => ?_⟩⟩
  · exact exec_fdec_of_not_identified ign (not_identified_set hf.1 hi hv)
  · obtain ⟨hid, hsum⟩ := hf
    have hne : v.toNat ≠ sum12 f % 256 := fun h => hv (BitVec.eq_of_toNat_eq (h.trans hsum.symm))
    exact exec_fdec_of_wrong_sum ign (s := { s with frame := f.set 12 v }) hid hne

/-- Settles O20: byte 9 alone decides power off, and the previous snapshot keeps the rest. -/
theorem fdecOfAPowerOffFrame : Obligations.FdecOfAPowerOffFrame := by
  intro ign s hf h9
  rw [exec_fdec_of_wellFormed ign hf, interpret_powerOff (if_neg h9)]

/-- Settles O21: with power on each field is read by its table. -/
theorem fdecOfAPowerOnFrame : Obligations.FdecOfAPowerOnFrame := by
  intro ign s hf h9
  refine ⟨_, exec_fdec_of_wellFormed ign hf, ?_⟩
  rw [interpret_powerOn (if_pos h9)]
  refine ⟨rfl, ?_, swingOf_swingBits_getD .., fanOf_getD .., modeOf_getD ..⟩
  rw [toNat_tempOf, toNat_tempBits]

/-- Settles O22: decode reads no byte in which the two frames may differ. -/
theorem fdecIgnoresBytesItDoesNotInterpret : Obligations.FdecIgnoresBytesItDoesNotInterpret := by
  intro ign s f g hf hg h1 h4 h6 h9
  refine ⟨interpret f s.st, exec_fdec_of_wellFormed ign (s := { s with frame := f }) hf, ?_⟩
  rw [interpret_congr h1 h4 h6 h9]
  exact exec_fdec_of_wellFormed ign (s := { s with frame := g }) hg

/-! ## FENC, and FDEC after it -/

/-- Settles O15: the frame FENC writes is the encoded one, which is always well-formed. -/
theorem fencWritesTheEncodedFrame : Obligations.FencWritesTheEncodedFrame :=
  fun _ s => ⟨rfl, isWellFormed_frameEncode s.st⟩

/-- FENC, then FDEC over any previous snapshot, ends Ok with the encoded frame read over it (R121). -/
theorem exec_fdec_after_fenc (ign ign' : BitVec 29) (s : State) (prev : Snapshot) :
    ∃ t u, exec (.fenc ign) s = .next t ∧ exec (.fdec ign') { t with st := prev } = .next u ∧
      u.result = .ok ∧ u.st = interpret (frameEncode s.st) prev :=
  ⟨s.fenc, _, rfl,
    exec_fdec_of_wellFormed ign' (s := { s.fenc with st := prev }) (isWellFormed_frameEncode s.st),
    rfl, rfl⟩

/-- Settles O24: decode undoes encode on the source's ranges. -/
theorem frameRoundTrip : Obligations.FrameRoundTrip := by
  intro ign ign' s prev h
  have hrun := exec_fdec_after_fenc ign ign' s prev
  rwa [interpret_frameEncode h] at hrun

/-- Settles O25: byte 9 of the encoded frame says off, so decode reads no other field. -/
theorem powerOffRoundTrip : Obligations.PowerOffRoundTrip := by
  intro ign ign' s prev hpower _
  have hrun := exec_fdec_after_fenc ign ign' s prev
  rwa [interpret_powerOff ((powerOf_frameEncode s.st).trans hpower)] at hrun

/-! ## The field rows of a snapshot -/

/-- Rows run in turn hand their words over in turn, and none stops the run. -/
theorem runRows_eq_foldl_hand (is : List Instr) (s : State) :
    runRows is s = some ((is.map encode).foldl State.hand s) := by
  induction is generalizing s with
  | nil => rfl
  | cons i is ih =>
    rw [runRows, exec_eq_hand]
    exact ih _

/-- The words of the field rows of a power-on snapshot, by the codes FrameEncode uses (R101). -/
def fieldWords (c : Snapshot) : List TableWord :=
  [.field8 .id0 CFG.id0, .field5 (tempField c.temp), .field3 (swingCode c.swing),
    .field8 .id2 CFG.id2, .field8 .id3 CFG.id3, .field8 .fan (fanCode c.fan),
    .field8 .mode (modeCode c.mode), .field8 .power CFG.powerOn, .field8 .id10 CFG.id10,
    .field8 .button CFG.button]

/-- TempField in range is the difference over Nat (R103). -/
theorem ofNat_sub_eq_tempField {t : BitVec 6} (h : 8 ≤ t.toNat) :
    BitVec.ofNat 5 (t.toNat - 8) = tempField t := by
  revert t
  decide

/-- The swing row carries the swing code (R76). -/
theorem encode_swingRow (v : BitVec 1) :
    encode (if v = 1#1 then .swingVertical else .swingOff) = .field3 (swingCode v) := by
  revert v
  decide

/-- The fan row carries the fan code (R74). -/
theorem encode_fanRow {v : BitVec 3} (h : v.toNat ≤ 3) :
    encode (if v = 0#3 then .fanAuto else if v = 1#3 then .fanLow
      else if v = 2#3 then .fanMedium else .fanHigh) = .field8 .fan (fanCode v) := by
  revert v
  decide

/-- The mode row carries the mode code (R75). -/
theorem encode_modeRow {v : BitVec 3} (h : v.toNat ≤ 4) :
    encode (if v = 0#3 then .modeAuto else if v = 1#3 then .modeCool
      else if v = 2#3 then .modeHeat else if v = 3#3 then .modeDry else .modeFanonly)
      = .field8 .mode (modeCode v) := by
  revert v
  decide

/-- The rows of a round-trip snapshot carry the codes FrameEncode uses (R101). -/
theorem map_encode_rowsOf {c : Snapshot} (h : RoundTrips c) :
    (rowsOf c).map encode = fieldWords c := by
  obtain ⟨-, hmode, hfan, hlow, -⟩ := h
  simp only [rowsOf, List.map_cons, List.map_nil, encode_swingRow, encode_fanRow hfan,
    encode_modeRow hmode, ofNat_sub_eq_tempField (show 8 ≤ c.temp.toNat by omega)]
  rfl

/-- The two parts of byte 1 written in turn make the whole byte (R62, R63). -/
theorem State.writeSwing_writeTemp (s : State) (t : BitVec 5) (c : BitVec 3) :
    (s.writeTemp t).writeSwing c = s.setByte 1 (byte1 t c) :=
  congrArg (fun t' => s.setByte 1 (byte1 t' c)) (tempBits_byte1 t (swingBits s.frame.b1))

/-- Those words handed over leave the encoded frame of a power-on snapshot, but for bytes 5, 7, 8 and 12,
which stay as they were. -/
theorem foldl_hand_fieldWords {c : Snapshot} (hpower : c.power = 1#1) (s : State) :
    (fieldWords c).foldl State.hand s = { s with frame :=
      { frameEncode c with
        b5 := s.frame.b5, b7 := s.frame.b7, b8 := s.frame.b8, b12 := s.frame.b12 } } := by
  have h9 : (frameEncode c).b9 = CFG.powerOn := if_pos hpower
  simp only [frameEncode_b6_powerOn hpower, h9, fieldWords, List.foldl_cons, List.foldl_nil, State.hand,
    State.writeSwing_writeTemp]
  rfl

/-- Settles O46: the rows' words carry the codes FrameEncode uses, each to its byte. -/
theorem fieldRowsSpellTheEncodedFrame : Obligations.FieldRowsSpellTheEncodedFrame := by
  intro s c h
  have hrun : runRows (rowsOf c) s = _ :=
    (runRows_eq_foldl_hand _ s).trans (by rw [map_encode_rowsOf h, foldl_hand_fieldWords h.1])
  exact ⟨_, hrun, by simp [Frame.get], by simp [Frame.get]⟩

end Sys2Proof.Machine
end

section
/-! PROOFS. The statements about pulse trains: which symbols a train has, how long it takes on the air, that
it tells the frame it was made of, and what PENC and XMIT send. -/

namespace Sys2Proof

open Sys2Proof.Claims

/-! ## The data bits of a frame -/

theorem Frame.getD_bytes (f : Frame) (i : Fin 13) : f.bytes.getD i.val 0#8 = f.get i := by
  fin_cases i <;> rfl

/-- The claims' data bit k is the model's (R52). -/
theorem dataBit_eq_bit (f : Frame) {k : Nat} (hk : k < 104) : dataBit f k = f.bit k := by
  obtain ⟨i, j, hj, rfl⟩ : ∃ (i : Fin 13) (j : Nat), j < 8 ∧ k = 8 * i.val + j :=
    ⟨⟨k / 8, by omega⟩, k % 8, Nat.mod_lt _ (by decide), by simp; omega⟩
  have hbyte : (8 * i.val + j) / 8 = i.val := by omega
  have hbit : (8 * i.val + j) % 8 = j := by omega
  rw [Frame.bit_byte f i hj, dataBit, hbyte, hbit, Frame.getD_bytes]

/-- The data bits in the order they are sent (R52, R133). -/
theorem map_dataBit_range (f : Frame) : (List.range 104).map (dataBit f) = f.bits := by
  rw [Frame.bits_eq]
  exact List.map_congr_left fun k hk => dataBit_eq_bit f (List.mem_range.mp hk)

/-- A frame is its data bits: the scan's buffer assembles them back (R140). -/
theorem Frame.bits_injective : Function.Injective Frame.bits :=
  Function.LeftInverse.injective (g := fun bs => Machine.setBits 0 bs Frame.zero) Machine.setBits_bits

/-! ## The symbols of a train -/

theorem pulseEncode_eq_cons (f : Frame) :
    pulseEncode f = hdrSymbol :: (f.bits.map bitSymbol ++ [ftrSymbol]) := rfl

/-- Symbol 1 + k of a train is the symbol of data bit k (R133). -/
theorem getElem?_pulseEncode_bit (f : Frame) {k : Nat} (hk : k < 104) :
    (pulseEncode f)[1 + k]? = some (bitSymbol (f.bit k)) := by
  rw [pulseEncode_eq_cons, Nat.add_comm, List.getElem?_cons_succ, List.getElem?_append_left (by simpa),
    Frame.bits_eq]
  simp [hk]

theorem bitSymbol_eq (b : Bool) : bitSymbol b = ⟨625, if b then 1935 else 685⟩ := by
  cases b <;> rfl

theorem bitSymbol_injective : Function.Injective bitSymbol := by
  intro a b h
  revert a b
  decide

/-- Settles O27: the header, data bit 8 i + j at 1 + 8 i + j, and the footer. -/
theorem trainHasTheSymbolsOfTheRules : Obligations.TrainHasTheSymbolsOfTheRules := by
  refine fun f => ⟨Machine.length_pulseEncode f, rfl, fun i j hj => ?_, ?_⟩
  · rw [Nat.add_assoc, getElem?_pulseEncode_bit f (by omega), Frame.bit_byte f i hj, bitSymbol_eq]
  · rw [pulseEncode_eq_cons, List.getElem?_cons_succ, List.getElem?_append_right (by simp)]
    simp [ftrSymbol, CFG]

/-! ## The duration of a train -/

/-- How long a symbol takes on the air (R135). -/
def Symbol.duration (y : Symbol) : Nat := y.mark + y.space

/-- The duration of the symbols of some bits, by their numbers of 0s and 1s (R135). -/
theorem sum_duration_bitSymbol (bs : List Bool) :
    ((bs.map bitSymbol).map Symbol.duration).sum =
      (625 + 685) * bs.count false + (625 + 1935) * bs.count true := by
  induction bs with
  | nil => rfl
  | cons b bs ih =>
    rw [List.map_cons, List.map_cons, List.sum_cons, ih]
    cases b <;> simp [Symbol.duration, bitSymbol_eq] <;> ring

/-- The number of 0 bits of a frame, counted over its bit numbers. -/
theorem length_filter_not_dataBit (f : Frame) :
    ((List.range 104).filter fun k => !dataBit f k).length = f.bits.count false := by
  rw [← map_dataBit_range, ← List.countP_eq_length_filter, List.count, List.countP_map]
  exact List.countP_congr fun k _ => by simp

/-- Settles O28: the 1 bits are those of the 104 that are not 0. -/
theorem trainDurationCountsTheZeroBits : Obligations.TrainDurationCountsTheZeroBits := by
  intro f
  have hcount : f.bits.count true + f.bits.count false = 104 := by
    rw [List.count_true_add_count_false, Frame.length_bits]
  have htrain : ((pulseEncode f).map Symbol.duration).sum =
      hdrSymbol.duration + ((f.bits.map bitSymbol).map Symbol.duration).sum + ftrSymbol.duration := by
    simp [pulseEncode_eq_cons, Nat.add_assoc]
  have hhdr : hdrSymbol.duration = 8960 + 4485 := rfl
  have hftr : ftrSymbol.duration = 625 := rfl
  rw [sum_duration_bitSymbol, hhdr, hftr] at htrain
  change ((pulseEncode f).map Symbol.duration).sum = _
  rw [htrain, length_filter_not_dataBit]
  omega

/-! ## A train tells its frame -/

/-- Settles O29: take header and footer off, then symbols tell bits and bits tell the frame. -/
theorem pulseEncodeIsInjective : Obligations.PulseEncodeIsInjective := by
  intro f g h
  rw [pulseEncode_eq_cons, pulseEncode_eq_cons, List.cons_inj_right, List.append_left_inj] at h
  exact Frame.bits_injective (List.map_injective_iff.mpr bitSymbol_injective h)

/-! ## PENC and XMIT -/

/-- Settles O26: PENC is one transmission and the end of an operation without failure. -/
theorem pencTransmitsTheTrainOfFrame : Obligations.PencTransmitsTheTrainOfFrame :=
  fun _ _ => rfl

/-- Settles O30: XMIT runs the meanings of FENC and PENC in turn, and the encoded frame is well-formed. -/
theorem xmitIsFencThenPenc : Obligations.XmitIsFencThenPenc :=
  fun _ _ _ s => ⟨rfl, ⟨s.fenc, rfl, rfl⟩, isWellFormed_frameEncode s.st⟩

end Sys2Proof
end

section
/-! PROOFS. The statements about PDEC: how each end of its scan ends the command, the claims' answers and
queries as the model's own, and what the scan makes of a reference receiver that holds a train or its
beginning. -/

namespace Sys2Proof.Machine

open Sys2Proof.Claims

/-! ## How a PDEC ends -/

/-- A PDEC is its scan, heard, and the end that the scan's outcome leads to (R140). -/
theorem exec_pdec_of_scan {s : State} {o : Scan} {l : Line} (h : scan s.line = (o, l))
    (ign : BitVec 29) : exec (.pdec ign) s = .next ((s.hear l).endScan o) := by
  rw [exec, execPdec, h]

/-- A PDEC that reads a whole frame is the FDEC of that frame over the ST_* it found (R144). -/
theorem exec_pdec_of_read {s : State} {f : Frame} {l : Line} (h : scan s.line = (.read f, l))
    (ign ign' : BitVec 29) : exec (.pdec ign) s = exec (.fdec ign') ((s.hear l).setFrame f) :=
  exec_pdec_of_scan h ign

/-- A scan whose header query is answered absent ends there (R141). -/
theorem scan_of_header_absent {l : Line} (h : l.answer queryHeader = false) :
    scan l = (.headerMismatch, l.ask queryHeader) := by
  simp [scan, h]

/-- Settles O32: the scan ends at its first query. -/
theorem pdecReportsHeaderMismatch : Obligations.PdecReportsHeaderMismatch := by
  intro ign s h
  have habsent : s.rx.present queryHeader = false := h
  have hscan := scan_of_header_absent (l := s.line) habsent
  rw [State.line, Line.ask_mk, habsent] at hscan
  exact ⟨_, exec_pdec_of_scan hscan ign⟩

/-! ## The claims' answers and queries -/

theorem answersFor_eq_spell (bs : List Bool) : answersFor bs = spell bs := by
  induction bs with
  | nil => rfl
  | cons b bs ih => cases b <;> simpa [answersFor, spell] using ih

theorem queriesFor_eq_readEvents (bs : List Bool) : queriesFor bs = readEvents bs := by
  induction bs with
  | nil => rfl
  | cons b bs ih => cases b <;> simpa [queriesFor, readEvents, queryOne, queryZero, CFG] using ih

/-- Settles O35: the answers spell the frame's data bits, the scan assembles them, and an FDEC of the frame
ends in one of its three ways. -/
theorem pdecOfAWholeFrame : Obligations.PdecOfAWholeFrame := by
  intro ign ign' s cap n f rest bs hrx heard
  have hbs : bs = f.bits := map_dataBit_range f
  have hscan : scan s.line = (.read f, ⟨heard.rx, heard.rxlog⟩) := by
    rw [State.line, hrx, hbs, answersFor_eq_spell, List.cons_append,
      scan_oracle_whole cap n f.length_bits true rest, setBits_bits, f.length_bits,
      ← queriesFor_eq_readEvents, ← hbs]
    rfl
  have hfdec : exec (.pdec ign) s = exec (.fdec ign') heard := exec_pdec_of_read hscan ign ign'
  rw [hfdec]
  exact ⟨rfl, exec_fdec_of_not_identified ign' (s := heard),
    exec_fdec_of_wrong_sum ign' (s := heard),
    fun hf => ⟨_, exec_fdec_of_wellFormed ign' (s := heard) hf⟩⟩

/-! ## The queries of a PDEC -/

/-- The three shapes of what a scan adds to RXLOG (R147). -/
inductive QueryShape (es : List RxEvent) : Prop where
  | header (h : es = [⟨queryHeader, false⟩])
  | bits (bs : List Bool) (hlen : bs.length < 104)
      (h : es = ⟨queryHeader, true⟩ :: readEvents bs ++ [⟨queryOne, false⟩, ⟨queryZero, false⟩])
  | footer (bs : List Bool) (a : Bool) (hlen : bs.length = 104)
      (h : es = ⟨queryHeader, true⟩ :: readEvents bs ++ [⟨queryFooter, a⟩])

theorem scan_log_shape (l : Line) : ∃ es, (scan l).2.log = l.log ++ es ∧ QueryShape es := by
  cases scanRun l with
  | headerMismatch hh heq => exact ⟨_, by simp [heq, hh], .header rfl⟩
  | bitMismatch bs l' hh hr hlen h1 h0 heq =>
    exact ⟨_, by simp [heq, hr.log, hh, h1, h0], .bits bs hlen rfl⟩
  | footerMismatch bs l' hh hr hlen hf heq =>
    exact ⟨_, by simp [heq, hr.log, hh, hf], .footer bs false hlen rfl⟩
  | read bs l' hh hr hlen hf heq =>
    exact ⟨_, by simp [heq, hr.log, hh, hf], .footer bs true hlen rfl⟩

/-- A scan asks between 1 and 210 queries (R147). -/
theorem QueryShape.length_bounds {es : List RxEvent} (h : QueryShape es) :
    1 ≤ es.length ∧ es.length ≤ 210 := by
  cases h with
  | header h => simp [h]
  | bits bs hlen h | footer bs a hlen h =>
    have hbits := length_readEvents bs
    simp only [h, List.length_append, List.length_cons, List.length_nil]
    omega

/-- RXLOG after a PDEC is what its scan left (R30, R170). -/
theorem rxlog_of_exec_pdec {ign : BitVec 29} {s t : State} (h : exec (.pdec ign) s = .next t) :
    t.rxlog = (scan s.line).2.log := by
  cases h
  exact State.endScan_rxlog ..

/-- Settles O37: RXLOG gains what the scan asks, and the scan sees neither FRAME nor ST_*. -/
theorem pdecQueriesHaveTheirShape : Obligations.PdecQueriesHaveTheirShape := by
  intro ign s t ht
  have hlog := rxlog_of_exec_pdec ht
  refine ⟨?_, fun c f => ⟨_, rfl, (rxlog_of_exec_pdec (ign := ign) rfl).trans hlog.symm⟩⟩
  obtain ⟨es, hes, hshape⟩ := scan_log_shape s.line
  obtain ⟨hlow, hhigh⟩ := hshape.length_bounds
  refine ⟨es, hlog.trans hes, hlow, hhigh, ?_⟩
  simp only [queriesFor_eq_readEvents]
  cases hshape with
  | header h => exact .inl h
  | bits bs hlen h => exact .inr (.inl ⟨bs, hlen, h⟩)
  | footer bs a hlen h => exact .inr (.inr ⟨bs, a, hlen, h⟩)

/-! ## The scan of a train -/

/-- The reference receiver past its last symbol answers absent (R49). -/
theorem Receiver.present_reference_nil {c : List Symbol} {n : Nat} (m : MatchRule) (h : c.drop n = [])
    (q : RxQuery) : (⟨c, n, .reference m⟩ : Receiver).present q = false := by
  have : (c)[n]? = none := List.getElem?_eq_none (List.drop_eq_nil_iff.mp h)
  simp [Receiver.present, this]

theorem MatchRule.Refl.fits_queryHeader {m : MatchRule} (hm : m.Refl) :
    queryHeader.fits m hdrSymbol = true := by
  simp [RxQuery.fits, queryHeader, hdrSymbol, CFG, hm 8960, hm 4485]

theorem MatchRule.Refl.fits_queryFooter {m : MatchRule} (hm : m.Refl) :
    queryFooter.fits m ftrSymbol = true :=
  hm 625 (by simp)

/-- MatchRefl and MatchDisjoint: a zero space is not taken for a one space (R51). -/
theorem MatchRule.Disjoint.holds_one_zero {m : MatchRule} (hd : m.Disjoint) (hm : m.Refl) :
    m.holds 1935 685 = false :=
  Bool.eq_false_iff.mpr fun h => hd 685 ⟨h, hm 685 (by simp)⟩

section Train

variable {m : MatchRule} (hm : m.Refl) (hd : m.Disjoint) {c : List Symbol} {n : Nat} {bs : List Bool}
  {tail : List Symbol} (h : c.drop n = hdrSymbol :: (bs.map bitSymbol ++ tail)) (log : List RxEvent)
include h

/-- What is left of the capture after the header and the data bits. -/
theorem drop_header_bits : c.drop (n + 1 + bs.length) = tail := by
  rw [← List.drop_drop, ← List.drop_drop, h, List.drop_succ_cons, List.drop_zero]
  exact List.drop_left' (by simp)

include hm

theorem answer_header_reference :
    (⟨⟨c, n, .reference m⟩, log⟩ : Line).answer queryHeader = true :=
  (Receiver.present_reference h _).trans hm.fits_queryHeader

include hd

/-- Past the header, the symbols of some bits are read as those bits (R148). -/
theorem reads_header_reference :
    Reads ((⟨⟨c, n, .reference m⟩, log⟩ : Line).ask queryHeader) bs
      ⟨⟨c, n + 1 + bs.length, .reference m⟩, log ++ [⟨queryHeader, true⟩] ++ readEvents bs⟩ := by
  have hh : (⟨c, n, .reference m⟩ : Receiver).present queryHeader = true :=
    answer_header_reference hm h log
  have hdrop : c.drop (n + 1) = bs.map bitSymbol ++ tail := by
    rw [← List.drop_drop, h, List.drop_succ_cons, List.drop_zero]
  rw [Line.ask_mk, Receiver.after_reference rfl, hh, if_pos rfl]
  exact reads_reference (hm 625 (by simp)) (hm 1935 (by simp)) (hm 685 (by simp))
    (hd.holds_one_zero hm) c (n + 1) bs tail _ hdrop

end Train

/-- A capture that ends after the header and fewer than 104 data symbols fails at the next bit (R146). -/
theorem scan_reference_short {m : MatchRule} (hm : m.Refl) (hd : m.Disjoint) {c : List Symbol} {n : Nat}
    {bs : List Bool} (h : c.drop n = hdrSymbol :: bs.map bitSymbol) (hlen : bs.length < 104)
    (log : List RxEvent) : (scan ⟨⟨c, n, .reference m⟩, log⟩).1 = .bitMismatch bs.length := by
  have h' : c.drop n = hdrSymbol :: (bs.map bitSymbol ++ []) := by rw [h, List.append_nil]
  have habsent := Receiver.present_reference_nil m (drop_header_bits h')
  rw [scan_of_reads_short (answer_header_reference hm h' log) (reads_header_reference hm hd h' log) hlen
    (habsent _)]
  rw [Line.ask_mk, Receiver.after_reference rfl, habsent]
  exact habsent _

/-- A capture that ends after the header and all 104 data symbols fails at the footer (R146). -/
theorem scan_reference_noFooter {m : MatchRule} (hm : m.Refl) (hd : m.Disjoint) {c : List Symbol} {n : Nat}
    {bs : List Bool} (h : c.drop n = hdrSymbol :: bs.map bitSymbol) (hlen : bs.length = 104)
    (log : List RxEvent) : (scan ⟨⟨c, n, .reference m⟩, log⟩).1 = .footerMismatch := by
  have h' : c.drop n = hdrSymbol :: (bs.map bitSymbol ++ []) := by rw [h, List.append_nil]
  have habsent := Receiver.present_reference_nil m (drop_header_bits h') queryFooter
  rw [scan_of_reads_whole (answer_header_reference hm h' log) (reads_header_reference hm hd h' log) hlen]
  simp [Line.answer, habsent]

/-- The entries RXLOG gains while the train of a frame is read (R147). -/
def trainEvents (f : Frame) : List RxEvent :=
  ⟨queryHeader, true⟩ :: readEvents f.bits ++ [⟨queryFooter, true⟩]

/-- A capture that holds a train is read as its frame, 106 symbols are consumed, and what follows the
footer is neither asked about nor logged (R146, R148). -/
theorem scan_reference_train {m : MatchRule} (hm : m.Refl) (hd : m.Disjoint) {c : List Symbol} {n : Nat}
    {f : Frame} {extra : List Symbol} (h : c.drop n = pulseEncode f ++ extra) (log : List RxEvent) :
    scan ⟨⟨c, n, .reference m⟩, log⟩ =
      (.read f, ⟨⟨c, n + 106, .reference m⟩, log ++ trainEvents f⟩) := by
  have h' : c.drop n = hdrSymbol :: (f.bits.map bitSymbol ++ ftrSymbol :: extra) := by
    simpa [pulseEncode_eq_cons] using h
  have hfooter : (⟨c, n + 1 + f.bits.length, .reference m⟩ : Receiver).present queryFooter = true :=
    (Receiver.present_reference (drop_header_bits h') _).trans hm.fits_queryFooter
  rw [scan_of_reads_whole (answer_header_reference hm h' log) (reads_header_reference hm hd h' log)
    f.length_bits, Line.ask_mk, Receiver.after_reference rfl, Line.answer, hfooter, setBits_bits]
  simp [trainEvents]

/-! ## The round trip on the air -/

theorem MatchRule.exact_refl : MatchRule.exact.Refl := by
  simp [MatchRule.Refl, MatchRule.holds]

theorem MatchRule.exact_disjoint : MatchRule.exact.Disjoint := by
  intro o ⟨h1, h0⟩
  simp only [MatchRule.holds, beq_iff_eq] at h1 h0
  omega

/-- A PDEC on a receiver that holds a train is the FDEC of the train's frame (R144, R148). -/
theorem exec_pdec_of_train {s : State} {m : MatchRule} {c : List Symbol} {n : Nat} {f : Frame}
    {extra : List Symbol} (hm : m.Refl) (hd : m.Disjoint) (hrx : s.rx = ⟨c, n, .reference m⟩)
    (hdrop : c.drop n = pulseEncode f ++ extra) (ign ign' : BitVec 29) :
    exec (.pdec ign) s = exec (.fdec ign')
      { s with rx := ⟨c, n + 106, .reference m⟩, rxlog := s.rxlog ++ trainEvents f, frame := f } := by
  have hscan := scan_reference_train hm hd hdrop s.rxlog
  rw [← hrx] at hscan
  exact exec_pdec_of_read hscan ign ign'

/-- Settles O38: a held train is read as its frame, and decode undoes encode on the frame that XMIT sends. -/
theorem pulseRoundTrip : Obligations.PulseRoundTrip := by
  refine ⟨fun ign s m f extra hm hd hrx => ?_, fun ign ign' s m prev hm hd hs => ?_,
    MatchRule.exact_refl, MatchRule.exact_disjoint⟩
  · obtain ⟨hans, hdrop⟩ := hrx
    have hrun := exec_pdec_of_train (s := s) hm hd (by rw [← hans]) hdrop ign 0
    obtain ⟨t, ht, hok, -⟩ := fdecSucceedsExactlyOnWellFormedFrames.1 0 { s with
      rx := ⟨s.rx.capture, s.rx.cursor + 106, .reference m⟩
      rxlog := s.rxlog ++ trainEvents f, frame := f }
    refine ⟨t, hrun.trans ht, ?_, ?_, hok⟩
    all_goals
      cases ht
      simp
  · have hrun := exec_pdec_of_train hm hd (c := pulseEncode (frameEncode s.st)) (n := 0)
      (s := { s.fenc.penc with st := prev, rx := ⟨pulseEncode (frameEncode s.st), 0, .reference m⟩ })
      rfl (List.append_nil _).symm ign' 0
    exact ⟨_, _, _, rfl, rfl,
      hrun.trans (exec_fdec_of_wellFormed 0 (isWellFormed_frameEncode s.st)), rfl,
      interpret_frameEncode hs prev, rfl⟩

/-! ## Captures that end early or go on -/

/-- The first 1 + n symbols of a train. -/
theorem take_pulseEncode (f : Frame) {n : Nat} (hn : n ≤ 104) :
    (pulseEncode f).take (1 + n) = hdrSymbol :: (f.bits.take n).map bitSymbol := by
  rw [pulseEncode_eq_cons, Nat.add_comm, List.take_succ_cons, List.take_append_of_le_length (by simpa),
    List.map_take]

/-- An FDEC does the same at any receiver, and leaves it (R110). -/
theorem exec_fdec_withReceiver (ign : BitVec 29) (s : State) (r : Receiver) :
    exec (.fdec ign) { s with rx := r } = .next { s.settle (frameDecode s.frame s.st) with rx := r } :=
  congrArg Host.Outcome.next (s.settle_withReceiver r _)

/-- Settles O39: each capture's scan ends at its first missing symbol, and a whole train's scan does not
depend on what follows. -/
theorem shortAndLongCaptures : Obligations.ShortAndLongCaptures := by
  intro ign s f on
  have hm := MatchRule.exact_refl
  have hd := MatchRule.exact_disjoint
  refine ⟨?_, fun n hn => ?_, ?_, fun extra => ?_⟩
  · exact ⟨_, exec_pdec_of_scan (s := on []) (scan_of_header_absent rfl) ign, rfl, rfl⟩
  · have hlen : (f.bits.take n).length = n := by rw [List.length_take, f.length_bits]; omega
    have hscan := scan_reference_short hm hd (n := 0) (take_pulseEncode f hn.le) (by omega) s.rxlog
    rw [hlen] at hscan
    refine ⟨_, exec_pdec_of_scan (s := on _) (Prod.ext hscan rfl) ign, rfl, ?_⟩
    simp only [State.endScan, State.raise_eq, State.finish_errpos, BitVec.toNat_ofNat]
    omega
  · have hlen : (f.bits.take 104).length = 104 := by simp
    have hscan := scan_reference_noFooter hm hd (n := 0) (take_pulseEncode f le_rfl) hlen s.rxlog
    exact ⟨_, exec_pdec_of_scan (s := on _) (Prod.ext hscan rfl) ign, rfl, rfl⟩
  · have halone := exec_pdec_of_train (s := on _) hm hd rfl (List.append_nil (pulseEncode f)).symm ign 0
    have hlong := exec_pdec_of_train (s := on (pulseEncode f ++ extra)) hm hd rfl rfl ign 0
    have hfdec := exec_fdec_withReceiver 0 { s with rxlog := s.rxlog ++ trainEvents f, frame := f }
    exact ⟨_, _, halone.trans (hfdec _), hlong.trans (hfdec _), rfl, rfl, State.settle_frame .., rfl, rfl,
      rfl, rfl⟩

end Sys2Proof.Machine
end

section
/-! PROOFS. The statements about failures: the two ends of a PDEC whose scan fails past its header, what a
failed operation leaves as it was, and which results each operation can end in. -/

namespace Sys2Proof.Machine

open Sys2Proof.Claims

/-! ## The failures of a scan past its header -/

/-- Settles O33: the answers spell fewer than 104 bits and then fit neither pair. -/
theorem pdecReportsBitMismatch : Obligations.PdecReportsBitMismatch := by
  intro ign s cap n bs rest hlen hrx
  have hscan := scan_oracle_short cap n hlen rest s.rxlog
  rw [← answersFor_eq_spell, ← queriesFor_eq_readEvents, ← List.cons_append, ← hrx] at hscan
  exact ⟨_, exec_pdec_of_scan hscan ign⟩

/-- Settles O34: the answers spell all 104 bits, and the footer's query is answered absent. -/
theorem pdecReportsFooterMismatch : Obligations.PdecReportsFooterMismatch := by
  intro ign s cap n bs rest hlen hrx
  have hscan := scan_oracle_whole cap n hlen false rest s.rxlog
  rw [← answersFor_eq_spell, ← queriesFor_eq_readEvents, ← List.cons_append, ← hrx, hlen] at hscan
  exact ⟨_, exec_pdec_of_scan hscan ign⟩

/-! ## What a failed operation leaves as it was -/

/-- A command row runs the operation of its code (table T9). -/
theorem exec_of_isCommand {i : Instr} (h : isCommand i = true) (s : State) :
    ∃ code, exec i s = .next (s.command code) := by
  cases i with
  | fenc => exact ⟨1, rfl⟩
  | fdec => exact ⟨2, rfl⟩
  | penc => exact ⟨3, rfl⟩
  | pdec => exact ⟨4, rfl⟩
  | xmit => exact ⟨5, rfl⟩
  | reserved0 | reserved67 => exact ⟨0, rfl⟩
  | _ => cases h

/-- The two operations that send a train cannot fail (R130, R138). -/
theorem State.sent_nil_of_result_ne {s : State} {code : Nat} (h : (s.command code).result ≠ .ok) :
    s.sent code = [] := by
  refine s.sent_nil fun hcode => h ?_
  obtain rfl | rfl : code = 3 ∨ code = 5 := by simpa using hcode
  all_goals rfl

/-- Settles O41: ST_* are written by operations that end Ok, and trains are sent by operations that cannot
end otherwise. -/
theorem failedOperationKeepsTheSnapshot : Obligations.FailedOperationKeepsTheSnapshot := by
  intro i s t hi ht hfail
  obtain ⟨code, hcode⟩ := exec_of_isCommand hi s
  cases hcode.symm.trans ht
  have hst : (s.command code).st = s.st := by
    by_contra hne
    exact hfail (s.command_st_ne code hne).2
  have htx : (s.command code).txlog = s.txlog := by
    rw [State.command_txlog, State.sent_nil_of_result_ne hfail, List.append_nil]
  exact ⟨hst, htx, s.command_done code, (s.command_errpos code).1⟩

/-! ## Which results an operation can end in -/

/-- FrameDecode fails in the two structural ways only (R111). -/
theorem State.settle_result_mem (s : State) (d : Decoded) :
    (s.settle d).result ∈ [.ok, .staticMismatch, .checksumMismatch] := by
  cases d <;> simp [State.settle]

/-- No end of a scan is IllegalCommand: that result belongs to the reserved codes (R166). -/
theorem State.endScan_result_ne_illegalCommand (s : State) (o : Scan) :
    (s.endScan o).result ≠ .illegalCommand := by
  cases o with
  | read f => exact ne_of_mem_of_not_mem ((s.setFrame f).settle_result_mem _) (by decide)
  | headerMismatch | bitMismatch | footerMismatch => exact nofun

/-- Settles O42: FDEC ends as `settle` does, PDEC as its scan does, and the others have one result each. -/
theorem eachOperationReportsOnlyItsFailures : Obligations.EachOperationReportsOnlyItsFailures := by
  refine fun ign low s t => ⟨?_, fun h => ?_, fun h => ?_, ?_⟩
  · rintro (h | h | h)
    all_goals
      cases h
      rfl
  · cases h
    exact s.settle_result_mem _
  · cases h
    exact State.endScan_result_ne_illegalCommand _ _
  · rintro (h | h)
    all_goals
      cases h
      rfl

end Sys2Proof.Machine
end

section
/-! PROOFS. The statement about a whole run: each step on a mapped line answers a next state and uses up
that line and no other, so a run is as long as its script. -/

namespace Sys2Proof.Machine

/-! ## A line leaves the lines after it -/

/-- No command changes the host's script. -/
@[simp] theorem State.command_script (s : State) (code : Nat) : (s.command code).script = s.script := by
  unfold State.command
  split
  case h_2 => exact State.settle_script ..
  case h_4 => exact State.endScan_script ..
  all_goals rfl

theorem perform_script {a : Access} {s t : State} (h : perform a s = .next t) : t.script = s.script := by
  cases accessEffect a with
  | command v _ heq =>
    cases (heq s).symm.trans h
    exact s.command_script _
  | refused r heq => cases (heq s).symm.trans h
  | reset _ heq | setsSt _ _ _ _ g heq | setsFrame _ g heq | setsReceiver g heq | reads _ _ heq
  | ignored heq =>
    cases (heq s).symm.trans h
    rfl

/-! ## Mapped lines -/

/-- A read or write of a mapped index, and every line of another kind, ends in a next state (R44, R45). -/
theorem perform_next_of_mapped {a : Access} (h : ¬ a.Unmapped) (s : State) :
    ∃ t, perform a s = .next t := by
  refine (perform_cases a s).resolve_right ?_
  rintro ⟨idx, hidx, rfl | ⟨v, rfl⟩, -⟩
  all_goals exact h ((regAt_none_iff idx).mp hidx)

/-- A step on a mapped line uses up that line and no other (R44). -/
theorem step_of_mapped {s : State} {a : Access} {rest : List Access} (hs : s.script = a :: rest)
    (ha : ¬ a.Unmapped) : ∃ t, step s = .next t ∧ t.script = rest := by
  obtain ⟨t, ht⟩ := perform_next_of_mapped ha (s.setScript rest)
  exact ⟨t, (step_cons hs).trans ht, perform_script ht⟩

/-! ## The run -/

theorem run_succ_of_step {M : Host.Core} {s t : M.State} (h : M.step s = .next t) (k : Nat) :
    M.run (k + 1) s = M.run k t := by
  simp only [Host.Core.run, h]

/-- Settles O7, by induction on the script: one step uses up its first line and leaves the rest of it, again
mapped, to the run. -/
theorem runOfMappedAccessesEnds : Obligations.RunOfMappedAccessesEnds := by
  intro s hmapped
  generalize hs : s.script = script at hmapped ⊢
  induction script generalizing s with
  | nil => exact ⟨s, rfl, hs⟩
  | cons a rest ih =>
    obtain ⟨ha, hrest⟩ := List.forall_mem_cons.mp hmapped
    obtain ⟨t, hstep, ht⟩ := step_of_mapped hs ha
    obtain ⟨u, hrun, hu⟩ := ih t ht hrest
    exact ⟨u, (run_succ_of_step (M := Sys2Proof.core) hstep rest.length).trans hrun, hu⟩

end Sys2Proof.Machine
end
